-- ==== Sys2Proof/Word.lean ====
section
/-! DEFINITION. The value types of the block: bytes, 12-bit and 16-bit numbers, bus addresses, frames. -/

namespace Sys2Proof

/-- A byte: 8 bits, unsigned (00_scope.md R12). -/
abbrev Byte := BitVec 8

/-- `u12`: the values the voltage encoder works on (00_scope.md R12). -/
abbrev U12 := BitVec 12

/-- `u16`: a raw voltage value or a pin mask (00_scope.md R12). -/
abbrev U16 := BitVec 16

/-- A bus address: 7 bits (00_scope.md R8). PRESUMED width (the spec's general knowledge, log 12); safe: no
rule computes with an address. -/
abbrev BusAddr := BitVec 7

/-- An entry of the address table: a bus address, or `none` for ABSENT (10_state.md R22). -/
abbrev Slot := Option BusAddr

/-- A frame: exactly 36 bytes, index 0..35 (30_encoding.md R80). -/
abbrev Frame := Vector Byte 36

/-- A logical channel, 0..15 (20_memory.md R55). -/
abbrev Channel := Fin 16

end Sys2Proof
end

