-- ==== Sys2Proof/Config.lean ====
section
/-! DEFINITION. What an implementation fixes (the record `Cfg` of 00_scope.md R6 and its constraint R7) and the
values the spec leaves free, each an opaque constant that nothing in Lean can evaluate. -/

namespace Sys2Proof

/-- The parameters the source names without a value (00_scope.md R6). -/
structure Cfg where
  /-- `MUX_ADDR[0]`: the primary multiplexer, channels 0..7. -/
  muxAddr0 : BusAddr
  /-- `MUX_ADDR[1]`: the secondary multiplexer, channels 8..15. -/
  muxAddr1 : BusAddr
  /-- `DAC_A_ADDR`. -/
  dacA : BusAddr
  /-- `DAC_B_ADDR`. -/
  dacB : BusAddr
  /-- `POT_ADDR`. -/
  pot : BusAddr
  /-- `CANDIDATES`: the scan's priority list, first is highest. -/
  candidates : List BusAddr
  /-- `PROBE_PAYLOAD`: a list of 0 or 1 bytes, here by its type (41_topology_scan.md R129). -/
  probePayload : Option Byte
  /-- `SAFE_PIN_MASK`. -/
  safePinMask : U16
  /-- `SAFE_RAW[0..15]`. -/
  safeRaw : Vector U16 16
  /-- `LB_MUXCTL`: target and the two bytes of the lightbar mux-control write. -/
  lbMuxctl : BusAddr → Byte → U12 → BusAddr × (Byte × Byte)
  /-- `LB_SETUP`: the lightbar setup writes for one device, in order. -/
  lbSetup : BusAddr → List (BusAddr × List Byte)
  /-- `SETTLE_DELAY`: no rule reads it (70_reset_and_hazards.md R264). -/
  settleDelay : Nat

/-- The five bus addresses that R7 speaks of. -/
def Cfg.addresses (c : Cfg) : List BusAddr := [c.muxAddr0, c.muxAddr1, c.dacA, c.dacB, c.pot]

/-- A configuration of this hardware: the five addresses pairwise different (00_scope.md R7); the candidates
without repeats and each one of the three device addresses (R6). -/
abbrev Cfg.Valid (c : Cfg) : Prop :=
  c.addresses.Nodup ∧ c.candidates.Nodup ∧ ∀ a ∈ c.candidates, a = c.dacA ∨ a = c.dacB ∨ a = c.pot

/-- `CFG_T`, the configuration of the test vectors (00_scope.md R6, 95_test_vectors.md section 0): the spec's own
arbitrary values, of no real board. No definition of the machine uses it. -/
def cfgT : Cfg where
  muxAddr0 := 0x10
  muxAddr1 := 0x11
  dacA := 0x20
  dacB := 0x21
  pot := 0x30
  candidates := [0x20, 0x21, 0x30]
  probePayload := none
  safePinMask := 0x8000
  safeRaw := Vector.replicate 16 0x0010
  lbMuxctl := fun a led v => (a, (led, v.extractLsb' 4 8))
  lbSetup := fun a => [(a, [0xC0, 0x00]), (a, [0xC1, 0x00])]
  settleDelay := 0

theorem cfgT_valid : cfgT.Valid := by decide

/-- A configuration together with the proof that it meets R7 (a configuration that does not "is not a configuration
of this hardware"). The defaults only show that the type has a member. -/
structure HardwareCfg where
  raw : Cfg := cfgT
  valid : raw.Valid := by exact cfgT_valid
  deriving Inhabited

/-- One completed bus write, `W(a, bytes, ack)` (20_memory.md R50). -/
structure BusEvent where
  addr : BusAddr
  bytes : List Byte
  ack : Bool
  deriving DecidableEq, Repr

/-- The configuration of the machine: any one that meets R7 (log 8). Free: no value of it can be proved. -/
opaque Config.hardware : HardwareCfg

/-- The record every rule reads its parameters from. -/
def Config.cfg : Cfg := Config.hardware.raw

theorem Config.cfg_valid : Config.cfg.Valid := Config.hardware.valid

/-- The oracle of 00_scope.md R10 and R18: the acknowledge bit of a write, as a function of the bus writes so far
(oldest first), its address and its bytes. Free: nothing is assumed of it (log 5). -/
opaque Config.oracle : List BusEvent → BusAddr → List Byte → Bool

/-- `PIN_RESET` (10_state.md R33, U2). Free (log 3). -/
opaque Config.pinReset : U16

/-- `TX_RESET` (10_state.md R33, U3). Free (log 3). -/
opaque Config.txReset : Frame

/-- The multiplexers' control bytes at power-up (10_state.md R33, 70_reset_and_hazards.md R251). Free (log 6). -/
opaque Config.muxctlReset : Vector Byte 2

/-- What an acknowledged write of two or more bytes leaves in a multiplexer's control byte, from the old byte and the
data: the spec describes one-byte writes only (20_memory.md R66). Free (log 7). -/
opaque Config.muxWide : Byte → List Byte → Byte

end Sys2Proof
end

