-- ==== Sys2Proof/Syntax.lean ====
section
/-! DEFINITION. The commands: one constructor per row of spec/opcode_table.json, with the operands the command reads. -/

namespace Sys2Proof

/-- One pair of the lightbar payload, layout LB16 (30_encoding.md R85). -/
structure LbPair where
  /-- The voltage byte `vb(p)`. -/
  vb : Byte
  /-- The LED-select byte `led(p)`. -/
  led : Byte
  deriving DecidableEq, Repr

/-- The nine rows of the opcode table (30_encoding.md R86, R92). -/
inductive Instr where
  /-- ALLSET: `PINMASK` and `raw(0..15)` (45_commands.md R182). -/
  | allset (pins : U16) (v : Vector U16 16)
  /-- RESCAN (R183). -/
  | rescan
  /-- SLAB0SET: `PINMASK` and `raw(0..7)` (R184). -/
  | slab0set (pins : U16) (v : Vector U16 8)
  /-- SLAB1SET: `raw(0..7)` (R185). -/
  | slab1set (v : Vector U16 8)
  /-- LB1SET: the 16 pairs (R186). -/
  | lb1set (p : Vector LbPair 16)
  /-- LB0SET: the 16 pairs (R187). -/
  | lb0set (p : Vector LbPair 16)
  /-- NOP2: its second byte goes into a diagnostic only (R188). -/
  | nop2 (op1 : Byte)
  /-- DESYNC_ENTER: its first byte goes into a diagnostic only (R189). -/
  | desyncEnter (op0 : Byte)
  /-- BYPASS: no encoding; it runs in every exchange that begins with DESYNC > 0 (R190). -/
  | bypass
  deriving DecidableEq, Repr

end Sys2Proof
end

