-- ==== Sys2Proof/Machine/State.lean ====
section
/-! DEFINITION. The machine's state as plain data, its reasons to stop, and the state at reset. -/

namespace Sys2Proof.Machine

open Sys2Proof

/-- The address table `TABLE[c][b]` (10_state.md R22). -/
abbrev Table := Vector (Vector Slot 2) 16

/-- A topology of the test environment: the device addresses present on each channel (20_memory.md R67). -/
abbrev Topology := Vector (List BusAddr) 16

/-- What each device was last sent, by key `128 * channel + address`, keys strictly rising (20_memory.md R67). -/
abbrev DevRegs := List (Nat × List Byte)

/-- An observable action of the block on the board (00_scope.md R11). -/
inductive Event where
  /-- A completed bus write `W(a, bytes, ack)` (20_memory.md R50). -/
  | bus (e : BusEvent)
  /-- A pin event `P(m)` (43_pin_demux.md R156). -/
  | pins (mask : U16)
  deriving DecidableEq, Repr

/-- The diagnostic events of 60_exceptions.md R232. No rule reads one. -/
inductive Diag where
  | muxWriteFailed (addr : BusAddr)
  | voltageWritten (addr : BusAddr) (v : U12) (ack : Bool)
  | unknownDevice (addr : Slot)
  | noDevice (chan : Channel)
  | slotOverflow (chan : Channel) (addr : BusAddr)
  | lightbarWriteFailed (chan : Channel) (slot : Fin 2) (addr : BusAddr)
  | lightbarSkipped (chan : Channel) (slot : Fin 2)
  | unknownSecondary (op1 : Byte)
  | desync (op0 : Byte)
  deriving DecidableEq, Repr

/-- The whole state. The first five fields are the block's registers, `muxctl` and `dev` the state outside it that its
bus writes change (10_state.md R32), the rest what the environment has to give and what an observer has seen. -/
structure State where
  /-- `DESYNC`: 0 is SYNCHRONIZED, `n` in 1..4 is RECOVERING(n) (10_state.md R20, R21). -/
  desync : BitVec 3
  /-- `TABLE` (10_state.md R22). -/
  table : Table
  /-- `PIN` (10_state.md R25). -/
  pin : U16
  /-- `RX`, the latch of the current exchange's request (10_state.md R27). -/
  rx : Frame
  /-- `TX`, the reply frame of the next exchange (10_state.md R28). -/
  tx : Frame
  /-- Whether BOOT has run (70_reset_and_hazards.md R250, R252). -/
  booted : Bool
  /-- The multiplexers' control bytes (10_state.md R32; 20_memory.md R66). -/
  muxctl : Vector Byte 2
  /-- What each device behind each channel was last sent (10_state.md R32; 20_memory.md R67). -/
  dev : DevRegs
  /-- The transfers the link master will start, oldest first (log 1). -/
  requests : List (List Byte)
  /-- Acknowledge bits settled for the next bus writes (log 5). -/
  answers : List Bool
  /-- The test environment's topology, if acknowledges follow R66 and R67 (log 5). -/
  bench : Option Topology
  /-- The replies sent, oldest first (00_scope.md R11). -/
  replies : List Frame
  /-- Bus writes and pin events in their one total order, oldest first (20_memory.md R63). -/
  trace : List Event
  /-- Diagnostics, oldest first (00_scope.md R15). -/
  diags : List Diag
  deriving DecidableEq, Repr

/-- No fault: "There are no fatal conditions" (60_exceptions.md R229); nothing faults, nothing is stuck (00_scope.md
R18). The type has no constructor, so no step can answer with one. -/
inductive Fault where
  deriving DecidableEq, Repr

/-- Why the model does not accept an input. -/
inductive Refusal where
  /-- Raised by an arm of `exec` that has no meaning yet; no arm of this model raises it. Safe. -/
  | notModelled (mnemonic : String)
  /-- Raised by `step` for a transfer of `n` bytes, `n` not 36 (30_encoding.md R80; 93 U6: refuse). Safe. -/
  | frameLength (n : Nat)
  /-- Raised by `execBypass` where DESYNC is not in 1..4: 5..7 are unreachable (93 U11: refuse as a start state), and
  with 0 no bypass runs (45_commands.md R180). Safe. -/
  | desyncOutsideRecovery (desync : BitVec 3)
  /-- Raised by `admitCfg`, before any step, for a configuration that breaks 00_scope.md R7 (93 U8: refuse) or whose candidate
  list is not of R6's type (log 8). Safe. -/
  | invalidConfig
  deriving DecidableEq, Repr

/-- Every entry ABSENT. -/
def emptyTable : Table := Vector.replicate 16 (Vector.replicate 2 none)

/-- The moment before boot (10_state.md R33, column "at reset"; 70_reset_and_hazards.md R250). `PIN`, `TX` and the
multiplexers' control bytes are the free values the spec leaves open (log 3, log 6); `RX` is 36 zeros (DESIGN CHOICE,
log 4). -/
def State.reset : State where
  desync := 0
  table := emptyTable
  pin := Config.pinReset
  rx := Vector.replicate 36 0
  tx := Config.txReset
  booted := false
  muxctl := Config.muxctlReset
  dev := []
  requests := []
  answers := []
  bench := none
  replies := []
  trace := []
  diags := []

end Sys2Proof.Machine
end

