-- ==== Sys2Proof/Machine/Operands.lean ====
section
/-! DEFINITION. The pure computations on operands: the 12-bit clamped converter, the device encodings, the lightbar
scaling, the channel map, the device type of an address, the indices of slabs and pairs, and the pin mapping. -/

namespace Sys2Proof.Machine

open Sys2Proof

/-- `CLAMP12` (42_voltage_encode.md R135): mask to 12 bits first, then clamp to the ceiling `0xFA0`. -/
def clamp12 (raw : U16) : U12 :=
  let v := raw.extractLsb' 0 12
  if v > 0xFA0 then 0xFA0 else v

/-- `ENCDAC` (42_voltage_encode.md R137): `[v[11:8], v[7:0]]`. -/
def encDac (v : U12) : List Byte := [(v.extractLsb' 8 4).zeroExtend 8, v.extractLsb' 0 8]

/-- `ENCPOT` (42_voltage_encode.md R137): `trunc8 (abs ((v >> 5) - 128))`, the subtraction on integers. -/
def encPot (v : U12) : Byte := BitVec.ofNat 8 (((v >>> 5).toNat : Int) - 128).natAbs

/-- `LBSCALE` (44_lightbar.md R165): `CLAMP12 (vb * 16)`. -/
def lbScale (vb : Byte) : U12 := clamp12 (vb.zeroExtend 16 * 16)

/-- `MuxOf` (20_memory.md R56): the multiplexer that owns a channel. -/
def muxOf (chan : Byte) : Fin 2 := if chan.toNat ≤ 7 then 0 else 1

/-- `SelBit` (20_memory.md R56): the control byte that routes a channel. -/
def selBit (chan : Byte) : Byte := 1 <<< (chan.toNat % 8)

/-- `MUX_ADDR[m]` (00_scope.md R6). -/
def muxAddr (cfg : Cfg) (m : Fin 2) : BusAddr := if m = 0 then cfg.muxAddr0 else cfg.muxAddr1

/-- A channel as the `u8` operand of `SELECT` (40_channel_select.md R110). -/
def chanByte (c : Channel) : Byte := BitVec.ofNat 8 c.val

/-- The kinds of device (10_state.md R24). -/
inductive DevType where
  | dac
  | pot
  | unknown
  deriving DecidableEq, Repr

/-- `DevType(a)` (10_state.md R24); `NONE` is `unknown`. -/
def devType (cfg : Cfg) : Slot → DevType
  | none => .unknown
  | some a => if a = cfg.dacA ∨ a = cfg.dacB then .dac else if a = cfg.pot then .pot else .unknown

/-- `TABLE[c][b]`. -/
def slotOf (t : Table) (c : Channel) (b : Fin 2) : Slot := t[c][b]

/-- Channel `8 * s + k` of slab `s` (20_memory.md R55). -/
def slabChannel (slab : Fin 2) (k : Fin 8) : Channel := ⟨8 * slab.val + k.val, by omega⟩

/-- Pair `p = 2 * k + b` of a lightbar payload (30_encoding.md R85; 44_lightbar.md R166). -/
def pairIndex (k : Fin 8) (b : Fin 2) : Fin 16 := ⟨2 * k.val + b.val, by omega⟩

/-- One turn of the source's pin loop (43_pin_demux.md R155): the mask's bit with MSB-first index `i` goes to pin index
`15 - i`. -/
def setPinMsbFirst (mask : U16) (i : Fin 16) (pins : U16) : U16 :=
  let bit : U16 := 1 <<< (15 - i.val)
  if mask.getMsbD i.val then pins ||| bit else pins &&& ~~~bit

end Sys2Proof.Machine
end

