-- ==== Sys2Proof/Machine/Env.lean ====
section
/-! DEFINITION. The environment's side of a bus write: the store of device registers, routing through the multiplexers,
the acknowledge bit, and what an acknowledged write changes outside the block (10_state.md R32, 20_memory.md section 6). -/

namespace Sys2Proof.Machine

open Sys2Proof

/-- The key of the device with address `a` behind channel `c`. -/
def devKey (c : Channel) (a : BusAddr) : Nat := 128 * c.val + a.toNat

/-- The bytes stored under a key; `none` is "never written" (20_memory.md R67). -/
def devRead (k : Nat) : DevRegs → Option (List Byte)
  | [] => none
  | (k', v) :: rest => if k = k' then some v else devRead k rest

/-- Stores bytes under a key, keeping the keys strictly rising. -/
def devWrite (k : Nat) (v : List Byte) : DevRegs → DevRegs
  | [] => [(k, v)]
  | (k', v') :: rest =>
    if k < k' then (k, v) :: (k', v') :: rest
    else if k = k' then (k, v) :: rest
    else (k', v') :: devWrite k v rest

/-- The store's canonical form: keys strictly rising, no entry without data. -/
abbrev devWf (d : DevRegs) : Prop := d.Pairwise (fun x y => x.1 < y.1) ∧ ∀ e ∈ d, e.2 ≠ []

/-- Whether an address is one of the two multiplexers'. -/
def isMuxAddr (cfg : Cfg) (a : BusAddr) : Bool := a == cfg.muxAddr0 || a == cfg.muxAddr1

/-- Channel `c` is routed when bit `c mod 8` of `MUXCTL[MuxOf(c)]` is 1 (20_memory.md R66). -/
def routed (ctl : Vector Byte 2) (c : Channel) : Bool := ctl[muxOf (chanByte c)].getLsbD (c.val % 8)

/-- The bus writes so far, oldest first: the history an oracle sees (00_scope.md R10). -/
def busHistory (s : State) : List BusEvent :=
  s.trace.filterMap fun e => match e with
    | .bus w => some w
    | .pins _ => none

/-- The acknowledge bit of the test environment, the same for data of any length: a multiplexer always acknowledges
(20_memory.md R66, D31), a device when it is present on a routed channel (R67). -/
def benchAck (cfg : Cfg) (topo : Topology) (s : State) (a : BusAddr) : Bool :=
  isMuxAddr cfg a || (List.finRange 16).any fun c => routed s.muxctl c && topo[c].contains a

/-- The acknowledge bit the environment gives (20_memory.md R51): the next settled answer if there is one, else the test
environment's if State names its topology, else the oracle's (log 5). -/
def ackOf (cfg : Cfg) (s : State) (a : BusAddr) (bytes : List Byte) : Bool :=
  match s.answers with
  | ack :: _ => ack
  | [] =>
    match s.bench with
    | some topo => benchAck cfg topo s a
    | none => Config.oracle (busHistory s) a bytes

/-- A multiplexer's control byte after an acknowledged write to it (20_memory.md R66, R54; log 7). -/
def ctlAfter (old : Byte) : List Byte → Byte
  | [] => old
  | [x] => x
  | bytes => Config.muxWide old bytes

/-- The control bytes after an acknowledged write of `bytes` to `a` (20_memory.md R66). -/
def muxctlAfter (cfg : Cfg) (ctl : Vector Byte 2) (a : BusAddr) (bytes : List Byte) : Vector Byte 2 :=
  if a = cfg.muxAddr0 then ctl.set 0 (ctlAfter ctl[0] bytes)
  else if a = cfg.muxAddr1 then ctl.set 1 (ctlAfter ctl[1] bytes)
  else ctl

/-- Whether an acknowledged write to `a` reaches a device behind channel `c`: the channel is routed and, where the
topology is known, the device is on it (20_memory.md R67; log 6). -/
def reaches (bench : Option Topology) (ctl : Vector Byte 2) (a : BusAddr) (c : Channel) : Bool :=
  routed ctl c && match bench with
    | some topo => topo[c].contains a
    | none => true

/-- The device store after an acknowledged write of `bytes` to `a`: every device it reaches holds the bytes (20_memory.md
R67); a write without data stores nothing (R54). -/
def devAfter (cfg : Cfg) (bench : Option Topology) (ctl : Vector Byte 2) (d : DevRegs) (a : BusAddr)
    (bytes : List Byte) : DevRegs :=
  if isMuxAddr cfg a || bytes.isEmpty then d
  else (List.finRange 16).foldl
    (fun acc c => if reaches bench ctl a c then devWrite (devKey c a) bytes acc else acc) d

/-- `s` placed in the test environment with topology `topo`, as that environment begins: both control bytes `0x00`
(20_memory.md R66), every device "never written" (R67). Reset itself fixes neither (10_state.md R33, 70_reset_and_hazards.md
R251). -/
def State.inBench (topo : Topology) (s : State) : State :=
  { s with bench := some topo, muxctl := Vector.replicate 2 0x00, dev := [] }

end Sys2Proof.Machine
end

