-- ==== Sys2Proof/Machine/Flags.lean ====
section
/-! DEFINITION. The block has no status flags and no condition codes (10_state.md R30). What decides in their place: the
dispatcher's state, which is a reading of DESYNC, and the error classes of the taxonomy. -/

namespace Sys2Proof.Machine

open Sys2Proof

/-- The dispatcher's states, names for values of DESYNC (10_state.md R21). -/
inductive Dispatcher where
  | synchronized
  | recovering (n : Nat)
  deriving DecidableEq, Repr

/-- The dispatcher's state of a value of DESYNC; 5, 6 and 7 have none (10_state.md R20, R21). -/
def dispatcherOf (desync : BitVec 3) : Option Dispatcher :=
  if desync = 0 then some .synchronized
  else if desync.toNat ≤ 4 then some (.recovering desync.toNat)
  else none

/-- DESYNC is in 1..4: RECOVERING(n) (10_state.md R21). -/
def recovering (desync : BitVec 3) : Bool := 0 < desync.toNat && desync.toNat ≤ 4

/-- The error classes of 60_exceptions.md R220 that a diagnostic can carry. -/
inductive ErrorClass where
  /-- (a) A bus write or probe was not acknowledged. -/
  | e1
  /-- (b) An absent or unrecognized address at a slot. -/
  | e2
  /-- (c) Desync. -/
  | e3
  /-- An unknown secondary opcode. -/
  | e6
  deriving DecidableEq, Repr

/-- The class of a diagnostic (60_exceptions.md R232); none for progress and for an overflow. Classes E4 and E5 report
nothing (R220). -/
def errorClass : Diag → Option ErrorClass
  | .muxWriteFailed _ => some .e1
  | .voltageWritten _ _ ack => if ack then none else some .e1
  | .unknownDevice _ => some .e2
  | .noDevice _ => some .e2
  | .slotOverflow _ _ => none
  | .lightbarWriteFailed _ _ _ => some .e1
  | .lightbarSkipped _ _ => some .e2
  | .unknownSecondary _ => some .e6
  | .desync _ => some .e3

end Sys2Proof.Machine
end

