-- ==== Sys2Proof/Machine/Ops.lean ====
section
/-! DEFINITION. The shared operations: the loop, diagnostics, the bus write, SELECT, WRITEV, VSET, PINAPPLY, and entry
into recovery with the step that counts out of it. -/

namespace Sys2Proof.Machine

open Sys2Proof

/-- `for k in 0..n-1: body`, ascending (00_scope.md R15). -/
def forFin {σ : Type} : (n : Nat) → (Fin n → σ → σ) → σ → σ
  | 0, _, s => s
  | n + 1, body, s => forFin n (fun k => body k.succ) (body 0 s)

/-- `diag <Name>(args)` (00_scope.md R15). -/
def diag (d : Diag) (s : State) : State := { s with diags := s.diags ++ [d] }

/-- `ack <- BusWrite(a, bytes)` (20_memory.md R50): the transaction is recorded with its acknowledge bit; it reads and
writes no block state. An acknowledged write changes what it addresses, another changes nothing (R54). -/
def busWrite (cfg : Cfg) (a : BusAddr) (bytes : List Byte) (s : State) : Bool × State :=
  let ack := ackOf cfg s a bytes
  (ack,
    { s with
      answers := s.answers.tail
      trace := s.trace ++ [.bus ⟨a, bytes, ack⟩]
      muxctl := if ack then muxctlAfter cfg s.muxctl a bytes else s.muxctl
      dev := if ack then devAfter cfg s.bench s.muxctl s.dev a bytes else s.dev })

/-- A best-effort write: a failure is reported once and nothing else follows from it (60_exceptions.md R221). -/
def busWriteReport (cfg : Cfg) (a : BusAddr) (bytes : List Byte) (failed : Diag) (s : State) : State :=
  let r := busWrite cfg a bytes s
  if r.1 then r.2 else diag failed r.2

/-- `SELECT(chan)` (40_channel_select.md R110): both multiplexers reset, then one select bit set in the owner; out of
range, no bus write (R111). Every write is made whatever the acknowledge bits before it (R112). -/
def select (cfg : Cfg) (chan : Byte) (s : State) : State :=
  if chan > 15 then s
  else
    let s := busWriteReport cfg (muxAddr cfg 0) [0x00] (.muxWriteFailed (muxAddr cfg 0)) s
    let s := busWriteReport cfg (muxAddr cfg 1) [0x00] (.muxWriteFailed (muxAddr cfg 1)) s
    busWriteReport cfg (muxAddr cfg (muxOf chan)) [selBit chan] (.muxWriteFailed (muxAddr cfg (muxOf chan))) s

/-- The write of `WRITEV`'s DAC and POT arms with its diagnostic. -/
def writeReported (cfg : Cfg) (a : BusAddr) (bytes : List Byte) (v : U12) (s : State) : State :=
  let r := busWrite cfg a bytes s
  diag (.voltageWritten a v r.1) r.2

/-- `WRITEV(a, raw)` (42_voltage_encode.md R139): the value is clamped, then encoded for the address's device type; an
absent or unrecognized address gets no write. -/
def writeV (cfg : Cfg) (a : Slot) (raw : U16) (s : State) : State :=
  let v := clamp12 raw
  match a with
  | none => diag (.unknownDevice none) s
  | some addr =>
    match devType cfg (some addr) with
    | .dac => writeReported cfg addr (encDac v) v s
    | .pot => writeReported cfg addr [encPot v] v s
    | .unknown => diag (.unknownDevice (some addr)) s

/-- The inner loop of `VSET` for slot `b` of channel `c`: a present slot is selected and written, an absent one skipped. -/
def vsetSlot (cfg : Cfg) (c : Channel) (raw : U16) (b : Fin 2) (s : State) : State :=
  match slotOf s.table c b with
  | none => s
  | some a => writeV cfg (some a) raw (select cfg (chanByte c) s)

/-- One channel of `VSET`: both slots receive the same raw value, slot 0 first. -/
def vsetChannel (cfg : Cfg) (c : Channel) (raw : U16) (s : State) : State :=
  let s := if slotOf s.table c 0 = none ∧ slotOf s.table c 1 = none then diag (.noDevice c) s else s
  forFin 2 (vsetSlot cfg c raw) s

/-- `VSET(lo, n, src)` (42_voltage_encode.md R141), channels `lo .. lo+n-1` ascending. -/
def vset (cfg : Cfg) (lo n : Nat) (h : lo + n ≤ 16) (src : Fin n → U16) (s : State) : State :=
  forFin n (fun k => vsetChannel cfg ⟨lo + k.val, by omega⟩ (src k)) s

/-- `PINAPPLY(mask)` (43_pin_demux.md R155): pin `j` takes bit `j` of the mask, all 16 at once; one pin event (R156). -/
def pinApply (mask : U16) (s : State) : State := { s with pin := mask, trace := s.trace ++ [.pins mask] }

/-- `RECOVERY_LEN` (00_scope.md R5). -/
def recoveryLen : BitVec 3 := 4

/-- Taking the one exception of the block, `raise Desync(op0)` (60_exceptions.md R225; 45_commands.md R189): report, load
the counter, apply the safe pin pattern and the safe voltage pattern. It saves nothing and goes on in the same exchange. -/
def enterRecovery (cfg : Cfg) (op0 : Byte) (s : State) : State :=
  let s := diag (.desync op0) s
  let s := { s with desync := recoveryLen }
  let s := pinApply cfg.safePinMask s
  vset cfg 0 16 (by decide) (fun k => cfg.safeRaw[k]) s

/-- The return from it: there is no return instruction; each bypassed exchange counts DESYNC down by one, and the one that
takes it from 1 to 0 returns to SYNCHRONIZED (60_exceptions.md R226; 45_commands.md R190). Nothing is restored. -/
def leaveRecoveryStep (s : State) : State := { s with desync := s.desync - 1 }

/-- A configuration that breaks 00_scope.md R7 is refused by name (93_implementation_defined.md U8), and so is one whose
candidate list is not of R6's type (log 8). -/
def admitCfg (c : Cfg) : Except Refusal HardwareCfg :=
  if h : c.Valid then .ok ⟨c, h⟩ else .error .invalidConfig

end Sys2Proof.Machine
end

