-- ==== Sys2Proof/Machine/Control.lean ====
section
/-! DEFINITION. The commands that only steer: NOP2, DESYNC_ENTER, BYPASS (45_commands.md R188 to R190). -/

namespace Sys2Proof.Machine

open Sys2Proof

/-- The meaning of NOP2 (45_commands.md R188): a diagnostic, nothing else. -/
def execNop2 (op1 : Byte) (s : State) : Host.Outcome State Fault Refusal :=
  .next (diag (.unknownSecondary op1) s)

/-- The meaning of DESYNC_ENTER (45_commands.md R189): entry into recovery. -/
def execDesyncEnter (op0 : Byte) (s : State) : Host.Outcome State Fault Refusal :=
  .next (enterRecovery Config.cfg op0 s)

/-- The meaning of BYPASS (45_commands.md R190): DESYNC counts down by one. With DESYNC at 0 no bypass runs and 5..7 are
no start state (93 U11; log 14): both are refused by name. -/
def execBypass (s : State) : Host.Outcome State Fault Refusal :=
  if recovering s.desync then .next (leaveRecoveryStep s)
  else .refused (.desyncOutsideRecovery s.desync)

end Sys2Proof.Machine
end

