-- ==== Sys2Proof/Machine/Lightbar.lean ====
section
/-! DEFINITION. The lightbar sub-protocol (44_lightbar.md): LBSET, LBCFG, and the commands LB1SET, LB0SET. -/

namespace Sys2Proof.Machine

open Sys2Proof

/-- One DAC-type slot of `LBSET` (44_lightbar.md R166): select, mux-control write, DAC write. -/
def lbServe (cfg : Cfg) (c : Channel) (b : Fin 2) (a : BusAddr) (pair : LbPair) (s : State) : State :=
  let s := select cfg (chanByte c) s
  let v := lbScale pair.vb
  let m := cfg.lbMuxctl a pair.led v
  let s := busWriteReport cfg m.1 [m.2.1, m.2.2] (.lightbarWriteFailed c b m.1) s
  busWriteReport cfg a (encDac v) (.lightbarWriteFailed c b a) s

/-- One slot of `LBSET`: served if its device type is DAC, else skipped with its pair (44_lightbar.md R166, R168). -/
def lbsetSlot (cfg : Cfg) (c : Channel) (b : Fin 2) (pair : LbPair) (s : State) : State :=
  match slotOf s.table c b with
  | none => diag (.lightbarSkipped c b) s
  | some a =>
    match devType cfg (some a) with
    | .dac => lbServe cfg c b a pair s
    | .pot => diag (.lightbarSkipped c b) s
    | .unknown => diag (.lightbarSkipped c b) s

/-- `LBSET(s)` (44_lightbar.md R166): channels of the slab ascending, slot 0 before slot 1, pair `2 * k + b`. -/
def lbset (cfg : Cfg) (slab : Fin 2) (p : Vector LbPair 16) (s : State) : State :=
  forFin 8 (fun k => forFin 2 fun b => lbsetSlot cfg (slabChannel slab k) b p[pairIndex k b]) s

/-- The setup writes of one device, in list order (44_lightbar.md R167). -/
def lbSetupWrites (cfg : Cfg) (c : Channel) (b : Fin 2) (ws : List (BusAddr × List Byte)) (s : State) : State :=
  ws.foldl (fun s w => busWriteReport cfg w.1 w.2 (.lightbarWriteFailed c b w.1) s) s

/-- One slot of `LBCFG` (44_lightbar.md R167). -/
def lbcfgSlot (cfg : Cfg) (c : Channel) (b : Fin 2) (s : State) : State :=
  match slotOf s.table c b with
  | none => diag (.lightbarSkipped c b) s
  | some a =>
    match devType cfg (some a) with
    | .dac => lbSetupWrites cfg c b (cfg.lbSetup a) (select cfg (chanByte c) s)
    | .pot => diag (.lightbarSkipped c b) s
    | .unknown => diag (.lightbarSkipped c b) s

/-- `LBCFG(s)` (44_lightbar.md R167). -/
def lbcfg (cfg : Cfg) (slab : Fin 2) (s : State) : State :=
  forFin 8 (fun k => forFin 2 fun b => lbcfgSlot cfg (slabChannel slab k) b) s

/-- The meaning of LB1SET: `LBSET(1)` (45_commands.md R186). -/
def execLb1set (p : Vector LbPair 16) (s : State) : Host.Outcome State Fault Refusal :=
  .next (lbset Config.cfg 1 p s)

/-- The meaning of LB0SET: `LBSET(0)` (45_commands.md R187). -/
def execLb0set (p : Vector LbPair 16) (s : State) : Host.Outcome State Fault Refusal :=
  .next (lbset Config.cfg 0 p s)

end Sys2Proof.Machine
end

