-- ==== Sys2Proof/Machine/Scan.lean ====
section
/-! DEFINITION. The topology scan (41_topology_scan.md), the command RESCAN and BOOT (70_reset_and_hazards.md R252). -/

namespace Sys2Proof.Machine

open Sys2Proof

/-- `delay SETTLE_DELAY`: it changes no state (00_scope.md R15; 70_reset_and_hazards.md R264). -/
def settle (_ : Nat) (s : State) : State := s

/-- The slots found on the channel under scan: `n` filled, `NEW[c][0..1]` (41_topology_scan.md R120). -/
structure Found where
  n : Nat
  slots : Vector Slot 2
  deriving DecidableEq, Repr

/-- No slot filled. -/
def Found.empty : Found := ⟨0, Vector.replicate 2 none⟩

/-- One probe of `SCAN` (41_topology_scan.md R120): an acknowledged address fills the next slot; beyond two it is reported
as an overflow and discarded (R123). The acknowledge bit of this write is the one environment input that reaches block
state (R122). -/
def probe (cfg : Cfg) (c : Channel) (a : BusAddr) (r : Found × State) : Found × State :=
  let w := busWrite cfg a cfg.probePayload.toList r.2
  if w.1 then
    if h : r.1.n < 2 then (⟨r.1.n + 1, r.1.slots.set r.1.n (some a)⟩, w.2)
    else (r.1, diag (.slotOverflow c a) w.2)
  else (r.1, w.2)

/-- One channel of `SCAN`: select, settle, then every candidate in list order (41_topology_scan.md R121). -/
def scanChannel (cfg : Cfg) (c : Channel) (s : State) : Found × State :=
  cfg.candidates.foldl (fun r a => probe cfg c a r)
    (Found.empty, settle cfg.settleDelay (select cfg (chanByte c) s))

/-- One turn of the channel loop: `NEW[c]` is set, the rest of `NEW` kept. -/
def scanStep (cfg : Cfg) (c : Channel) (r : Table × State) : Table × State :=
  let f := scanChannel cfg c r.2
  (r.1.set c f.1.slots, f.2)

/-- `SCAN()` (41_topology_scan.md R120): channels 0..15 ascending; the table is replaced as a whole at the end (R125). -/
def scan (cfg : Cfg) (s : State) : State :=
  let r := forFin 16 (scanStep cfg) (emptyTable, s)
  { r.2 with table := r.1 }

/-- `RESCAN` (45_commands.md R183). -/
def rescan (cfg : Cfg) (s : State) : State := lbcfg cfg 1 (lbcfg cfg 0 (scan cfg s))

/-- The meaning of RESCAN. -/
def execRescan (s : State) : Host.Outcome State Fault Refusal := .next (rescan Config.cfg s)

/-- `BOOT()` (70_reset_and_hazards.md R252): one scan and nothing else; then the block is ready for exchanges. -/
def boot (cfg : Cfg) (s : State) : State := { scan cfg s with booted := true }

end Sys2Proof.Machine
end

