-- ==== Sys2Proof/Machine/Voltage.lean ====
section
/-! DEFINITION. The voltage and pin commands: ALLSET, SLAB0SET, SLAB1SET (45_commands.md R182, R184, R185). -/

namespace Sys2Proof.Machine

open Sys2Proof

/-- `ALLSET` (45_commands.md R182): the pins first, then all 16 channels. -/
def allset (cfg : Cfg) (pins : U16) (v : Vector U16 16) (s : State) : State :=
  vset cfg 0 16 (by decide) (fun k => v[k]) (pinApply pins s)

/-- `SLAB0SET` (R184): the pins, then channels 0..7. -/
def slab0set (cfg : Cfg) (pins : U16) (v : Vector U16 8) (s : State) : State :=
  vset cfg 0 8 (by decide) (fun k => v[k]) (pinApply pins s)

/-- `SLAB1SET` (R185): channels 8..15; the pin mask is not applied. -/
def slab1set (cfg : Cfg) (v : Vector U16 8) (s : State) : State :=
  vset cfg 8 8 (by decide) (fun k => v[k]) s

/-- The meaning of ALLSET. -/
def execAllset (pins : U16) (v : Vector U16 16) (s : State) : Host.Outcome State Fault Refusal :=
  .next (allset Config.cfg pins v s)

/-- The meaning of SLAB0SET. -/
def execSlab0set (pins : U16) (v : Vector U16 8) (s : State) : Host.Outcome State Fault Refusal :=
  .next (slab0set Config.cfg pins v s)

/-- The meaning of SLAB1SET. -/
def execSlab1set (v : Vector U16 8) (s : State) : Host.Outcome State Fault Refusal :=
  .next (slab1set Config.cfg v s)

end Sys2Proof.Machine
end

