-- ==== Sys2Proof/Machine/Dispatch.lean ====
section
/-! DEFINITION. One arm per command: the meaning of each row of spec/opcode_table.json. -/

namespace Sys2Proof.Machine

open Sys2Proof

def exec (i : Instr) (s : State) : Host.Outcome State Fault Refusal :=
  match i with
  | .allset pins v => Sys2Proof.Machine.execAllset pins v s
  | .rescan => Sys2Proof.Machine.execRescan s
  | .slab0set pins v => Sys2Proof.Machine.execSlab0set pins v s
  | .slab1set v => Sys2Proof.Machine.execSlab1set v s
  | .lb1set p => Sys2Proof.Machine.execLb1set p s
  | .lb0set p => Sys2Proof.Machine.execLb0set p s
  | .nop2 op1 => Sys2Proof.Machine.execNop2 op1 s
  | .desyncEnter op0 => Sys2Proof.Machine.execDesyncEnter op0 s
  | .bypass => Sys2Proof.Machine.execBypass s

end Sys2Proof.Machine
end

