-- ==== Sys2Proof/WellFormed.lean ====
section
/-! DEFINITION. Which terms of `Instr` are commands of the block: the operand constraints of the opcode table. -/

namespace Sys2Proof

/-- The second bytes that name a command when the first is `0xFF` (30_encoding.md R86). -/
def namedSecondary : List Byte := [0xFF, 0xFE, 0xFC, 0xFD, 0xFB, 0xFA]

/-- NOP2 carries a second byte outside the six named ones, DESYNC_ENTER a first byte other than `0xFF`
(30_encoding.md R86, R88); the other commands take operands of any value (R84, R89). -/
def Instr.wellFormed : Instr → Bool
  | .allset _ _ => true
  | .rescan => true
  | .slab0set _ _ => true
  | .slab1set _ => true
  | .lb1set _ => true
  | .lb0set _ => true
  | .nop2 op1 => !namedSecondary.contains op1
  | .desyncEnter op0 => op0 != 0xFF
  | .bypass => true

end Sys2Proof
end

