-- ==== Sys2Proof/Decode.lean ====
section
/-! DEFINITION. The request frame's fields, the decoder (total on any bytes; a transfer of another length is rejected by
name), the encoder, and the decoder's reading of a word of spec/opcode_table.json. -/

namespace Sys2Proof

/-- A big-endian 16-bit field: `hi ++ lo` (20_memory.md R58, R59). -/
def be16 (hi lo : Byte) : U16 := hi ++ lo

/-- The more significant byte of a 16-bit field. -/
def hiByte (v : U16) : Byte := v.extractLsb' 8 8

/-- The less significant byte of a 16-bit field. -/
def loByte (v : U16) : Byte := v.extractLsb' 0 8

/-- `OP0 = RX[0]` (30_encoding.md R82). -/
def op0 (f : Frame) : Byte := f[0]

/-- `OP1 = RX[1]` (30_encoding.md R82). -/
def op1 (f : Frame) : Byte := f[1]

/-- `PINMASK = RX[2] * 256 + RX[3]` (30_encoding.md R83). -/
def pinMask (f : Frame) : U16 := be16 f[2] f[3]

/-- `raw(k) = RX[4+2k] * 256 + RX[5+2k]`, layout VF16 (30_encoding.md R85). -/
def rawField (f : Frame) (k : Fin 16) : U16 := be16 f[4 + 2 * k.val] f[5 + 2 * k.val]

/-- `(vb(p), led(p)) = (RX[4+2p], RX[5+2p])`, layout LB16 (30_encoding.md R85). -/
def lbField (f : Frame) (p : Fin 16) : LbPair := ⟨f[4 + 2 * p.val], f[5 + 2 * p.val]⟩

/-- The layout VF16: 16 raw values. -/
def vf16 (f : Frame) : Vector U16 16 := Vector.ofFn (rawField f)

/-- The layout VF8: the first 8 raw values, bytes 4..19, for both slab commands (30_encoding.md R85). -/
def vf8 (f : Frame) : Vector U16 8 := Vector.ofFn fun k => rawField f (k.castLE (by decide))

/-- The layout LB16: 16 interleaved pairs. -/
def lb16 (f : Frame) : Vector LbPair 16 := Vector.ofFn (lbField f)

/-- DISPATCH: the command a frame selects when DESYNC = 0 (45_commands.md R181): byte 0 is tested first, then byte 1. -/
def decodeFrame (f : Frame) : Instr :=
  if op0 f ≠ 0xFF then .desyncEnter (op0 f)
  else if op1 f = 0xFF then .allset (pinMask f) (vf16 f)
  else if op1 f = 0xFE then .rescan
  else if op1 f = 0xFC then .slab0set (pinMask f) (vf8 f)
  else if op1 f = 0xFD then .slab1set (vf8 f)
  else if op1 f = 0xFB then .lb1set (lb16 f)
  else if op1 f = 0xFA then .lb0set (lb16 f)
  else .nop2 (op1 f)

/-- The branch of an exchange, from DESYNC as it was when the exchange began (30_encoding.md R87; 45_commands.md R180
step 3): any value but 0 is a bypass and no byte of the frame is decoded. -/
def decodeExchange (desync : BitVec 3) (f : Frame) : Instr :=
  if desync ≠ 0 then .bypass else decodeFrame f

/-- Why a transfer is no instruction. -/
inductive DecodeReject where
  /-- The transfer has another length than 36 bytes (30_encoding.md R80, U6). -/
  | frameLength (n : Nat)
  deriving DecidableEq, Repr

/-- A transfer as a frame: 36 bytes or nothing (30_encoding.md R80). -/
def frameOfBytes (bytes : List Byte) : Option Frame :=
  if h : bytes.length = 36 then some ⟨bytes.toArray, by simp [h]⟩ else none

/-- The decoder on any bytes, with DESYNC = 0. -/
def decode (bytes : List Byte) : Except DecodeReject Instr :=
  match frameOfBytes bytes with
  | some f => .ok (decodeFrame f)
  | none => .error (.frameLength bytes.length)

/-! The opcode table (30_encoding.md R92), rows in priority order. -/

/-- One row: it matches a word `w` when `w AND mask = pattern`. -/
structure OpcodeRow where
  mnemonic : String
  mask : U16
  pattern : U16
  deriving DecidableEq, Repr

/-- The rows that have an encoding (the bypass has none). -/
def opcodeRows : List OpcodeRow :=
  [⟨"ALLSET", 0xFFFF, 0xFFFF⟩, ⟨"RESCAN", 0xFFFF, 0xFFFE⟩, ⟨"SLAB0SET", 0xFFFF, 0xFFFC⟩,
   ⟨"SLAB1SET", 0xFFFF, 0xFFFD⟩, ⟨"LB1SET", 0xFFFF, 0xFFFB⟩, ⟨"LB0SET", 0xFFFF, 0xFFFA⟩,
   ⟨"NOP2", 0xFF00, 0xFF00⟩, ⟨"DESYNC_ENTER", 0x0000, 0x0000⟩]

/-- The instruction word `OP0 ++ OP1` of a frame (30_encoding.md R92). -/
def opWord (f : Frame) : U16 := be16 (op0 f) (op1 f)

/-- The first row that matches, by name. -/
def firstRow (w : U16) : Option String :=
  (opcodeRows.find? fun r => w &&& r.mask == r.pattern).map (·.mnemonic)

/-- The table's name of a command. -/
def Instr.mnemonic : Instr → String
  | .allset _ _ => "ALLSET"
  | .rescan => "RESCAN"
  | .slab0set _ _ => "SLAB0SET"
  | .slab1set _ => "SLAB1SET"
  | .lb1set _ => "LB1SET"
  | .lb0set _ => "LB0SET"
  | .nop2 _ => "NOP2"
  | .desyncEnter _ => "DESYNC_ENTER"
  | .bypass => "BYPASS"

/-! The encoder (30_encoding.md R81, R85, R91: bytes a command does not use are 0x00, log 18). -/

/-- A frame from its first two bytes, its pin mask and its 32 payload bytes (30_encoding.md R81). -/
def mkFrame (b0 b1 : Byte) (pins : U16) (payload : Nat → Byte) : Frame :=
  Vector.ofFn fun i =>
    if i.val = 0 then b0 else if i.val = 1 then b1
    else if i.val = 2 then hiByte pins else if i.val = 3 then loByte pins
    else payload (i.val - 4)

/-- The payload byte `j` (frame index `4 + j`) of a list of big-endian values; 0x00 beyond its end. -/
def vfPayload (v : List U16) (j : Nat) : Byte :=
  match v[j / 2]? with
  | some x => if j % 2 = 0 then hiByte x else loByte x
  | none => 0

/-- The payload byte `j` of the 16 lightbar pairs. -/
def lbPayload (p : List LbPair) (j : Nat) : Byte :=
  match p[j / 2]? with
  | some x => if j % 2 = 0 then x.vb else x.led
  | none => 0

/-- A payload of zeros. -/
def noPayload (_ : Nat) : Byte := 0

/-- The request frame of a command (30_encoding.md R86, R91); the bypass has no encoding (45_commands.md R190). -/
def encode : Instr → Option Frame
  | .allset pins v => some (mkFrame 0xFF 0xFF pins (vfPayload v.toList))
  | .rescan => some (mkFrame 0xFF 0xFE 0 noPayload)
  | .slab0set pins v => some (mkFrame 0xFF 0xFC pins (vfPayload v.toList))
  | .slab1set v => some (mkFrame 0xFF 0xFD 0 (vfPayload v.toList))
  | .lb1set p => some (mkFrame 0xFF 0xFB 0 (lbPayload p.toList))
  | .lb0set p => some (mkFrame 0xFF 0xFA 0 (lbPayload p.toList))
  | .nop2 b => some (mkFrame 0xFF b 0 noPayload)
  | .desyncEnter b => some (mkFrame b 0 0 noPayload)
  | .bypass => none

/-! The word of spec/opcode_table.json. -/

/-- The frame whose bits are `w`, numbered as the table numbers them: the first 16-bit word is `OP0 ++ OP1` with `OP0`
its high byte (30_encoding.md R92), each later 16-bit word is the next two bytes in the same order; bits from `nbits`
on are 0 (log 17). -/
def wordFrame (nbits w : Nat) : Frame :=
  Vector.ofFn fun i =>
    let half := (w % 2 ^ nbits) >>> (16 * (i.val / 2)) % 65536
    BitVec.ofNat 8 (if i.val % 2 = 0 then half / 256 else half % 256)

/-- The instruction the decoder reads from a word of the table (log 17). -/
def decodeTableWord (nbits w : Nat) : Option Instr :=
  match decode (wordFrame nbits w).toList with
  | .ok i => some i
  | .error _ => none

end Sys2Proof
end

