-- ==== Sys2Proof/Machine/Link.lean ====
section
/-! DEFINITION. The link side of an exchange: what has arrived, the latch with the reply sent, and the reply encoder ECHO
(45_commands.md R180; 46_frame_echo.md). -/

namespace Sys2Proof.Machine

open Sys2Proof

/-- What the link master offers at the start of a step. -/
inductive Arrival where
  /-- Nothing: the block is idle (60_exceptions.md R230, R236). -/
  | idle
  /-- A whole request frame. -/
  | frame (req : Frame)
  /-- A transfer of `n` bytes, `n` not 36 (30_encoding.md R80). -/
  | wrongLength (n : Nat)

/-- The oldest transfer not yet taken. -/
def arrival (s : State) : Arrival :=
  match s.requests with
  | [] => .idle
  | bytes :: _ =>
    match frameOfBytes bytes with
    | some req => .frame req
    | none => .wrongLength bytes.length

/-- Steps 1 and 2 of EXCHANGE (45_commands.md R180): the reply sent is TX as it stands, the request is latched whole. -/
def latch (req : Frame) (s : State) : State :=
  { s with replies := s.replies ++ [s.tx], rx := req, requests := s.requests.tail }

/-- The reply frame `ECHO` builds: bytes 0..3 and 32..35 of the request, byte 4 as it was, zeros between (46_frame_echo.md
R210). -/
def echoFrame (rx tx : Frame) : Frame :=
  Vector.ofFn fun k =>
    if k.val ≤ 3 then rx[k] else if k.val = 4 then tx[k] else if k.val ≤ 31 then 0 else rx[k]

/-- `ECHO()`, step 4 of every exchange (46_frame_echo.md R210, R211). -/
def echo (s : State) : State := { s with tx := echoFrame s.rx s.tx }

end Sys2Proof.Machine
end

