-- ==== Sys2Proof/Machine/Step.lean ====
section
/-! DEFINITION. One step of the machine: BOOT once, then one exchange for each request, and nothing while none has arrived. -/

namespace Sys2Proof.Machine

open Sys2Proof

/-- Ends an exchange: ECHO runs after the command, whatever it was (46_frame_echo.md R211). -/
def finish : Host.Outcome State Fault Refusal → Host.Outcome State Fault Refusal
  | .next s => .next (echo s)
  | .fault r => .fault r
  | .refused r => .refused r

/-- `EXCHANGE(req)` (45_commands.md R180). -/
def exchange (req : Frame) (s : State) : Host.Outcome State Fault Refusal :=
  finish (exec (decodeExchange s.desync req) (latch req s))

/-- One step: from reset BOOT (70_reset_and_hazards.md R252); then an exchange when a request is there; with none the
block does nothing (60_exceptions.md R230). A transfer of another length is refused (93 U6). -/
def step (s : State) : Host.Outcome State Fault Refusal :=
  if s.booted then
    match arrival s with
    | .idle => .next s
    | .frame req => exchange req s
    | .wrongLength n => .refused (.frameLength n)
  else .next (boot Config.cfg s)

/-- `s` with the frame of a table word as the next request of a booted, synchronized block (log 2, log 17). -/
def State.withFetchWord (s : State) (nbits w : Nat) : State :=
  { s with requests := (wordFrame nbits w).toList :: s.requests, booted := true, desync := 0 }

end Sys2Proof.Machine
end

