-- ==== Sys2Proof/Safety.lean ====
section
/-! DEFINITION. The terms claims are made in: what an observer sees, what the rules say a command puts on the bus (written
from the rules as lists over channels and slots, apart from the machine's loops), and the invariant of a good state. -/

namespace Sys2Proof.Machine

open Sys2Proof

/-- An observable action without its acknowledge bit (00_scope.md R11). -/
inductive Act where
  | write (a : BusAddr) (bytes : List Byte)
  | pins (mask : U16)
  deriving DecidableEq, Repr

/-- What the block did, whatever the environment answered. -/
def actOf : Event → Act
  | .bus e => .write e.addr e.bytes
  | .pins m => .pins m

/-- From `s` to `t` the block did exactly `as`, in that order, and the earlier record is kept. -/
def Issues (s t : State) (as : List Act) : Prop :=
  ∃ evs : List Event, t.trace = s.trace ++ evs ∧ evs.map actOf = as

/-- From `s` to `t` nothing changed but what a bus write and a diagnostic touch: the settled answers, the devices outside
the block, the record of actions and the diagnostics. -/
structure BusOnly (s t : State) : Prop where
  desync : t.desync = s.desync
  table : t.table = s.table
  pin : t.pin = s.pin
  rx : t.rx = s.rx
  tx : t.tx = s.tx
  booted : t.booted = s.booted
  requests : t.requests = s.requests
  bench : t.bench = s.bench
  replies : t.replies = s.replies

/-- Nothing at all changed but the diagnostics. -/
def DiagsOnly (s t : State) : Prop := t = { s with diags := t.diags }

/-- What one recorded event leaves in the two control bytes and the device store: an acknowledged write its bytes wherever
it reaches, anything else nothing (20_memory.md R54, R66, R67). -/
def envStep (cfg : Cfg) (bench : Option Topology) (env : Vector Byte 2 × DevRegs) : Event → Vector Byte 2 × DevRegs
  | .bus e =>
    if e.ack then (muxctlAfter cfg env.1 e.addr e.bytes, devAfter cfg bench env.1 env.2 e.addr e.bytes) else env
  | .pins _ => env

/-- From `s` to `t` the multiplexers and the devices changed by the writes recorded between them and by nothing else. -/
def EnvFollows (cfg : Cfg) (s t : State) : Prop :=
  ∃ evs : List Event, t.trace = s.trace ++ evs ∧
    (t.muxctl, t.dev) = evs.foldl (envStep cfg s.bench) (s.muxctl, s.dev)

/-! What the rules put on the bus. -/

/-- The three writes of `SELECT(c)`, by number (40_channel_select.md R113, R116; the order of the resets is the spec's
decision D18, log 19). -/
def selectActs (cfg : Cfg) (c : Channel) : List Act :=
  [.write cfg.muxAddr0 [0x00], .write cfg.muxAddr1 [0x00],
   .write (if c.val < 8 then cfg.muxAddr0 else cfg.muxAddr1) [BitVec.ofNat 8 (2 ^ (c.val % 8))]]

/-- A raw value after mask and clamp, as a number (42_voltage_encode.md R135). -/
def clampNat (raw : Nat) : Nat := min (raw % 4096) 4000

/-- The two bytes of a DAC value (20_memory.md R60). -/
def dacBytes (n : Nat) : List Byte := [BitVec.ofNat 8 (n / 256), BitVec.ofNat 8 (n % 256)]

/-- The wiper byte of a potentiometer (42_voltage_encode.md R138). -/
def potByte (n : Nat) : Byte := BitVec.ofNat 8 (128 - n / 32)

/-- The bytes a device with address `a` is sent for a clamped value; none for an address that is no device type
(42_voltage_encode.md R139). -/
def deviceBytes (cfg : Cfg) (a : BusAddr) (n : Nat) : Option (List Byte) :=
  if a = cfg.dacA ∨ a = cfg.dacB then some (dacBytes n)
  else if a = cfg.pot then some [potByte n] else none

/-- What a voltage command does for one slot of channel `c` (42_voltage_encode.md R141). -/
def slotActs (cfg : Cfg) (c : Channel) (raw : U16) : Slot → List Act
  | none => []
  | some a => selectActs cfg c ++ ((deviceBytes cfg a (clampNat raw.toNat)).map (Act.write a)).toList

/-- What `VSET(lo, n, src)` does: channels ascending, slot 0 before slot 1 (42_voltage_encode.md R141). -/
def vsetActs (cfg : Cfg) (t : Table) (lo n : Nat) (h : lo + n ≤ 16) (src : Fin n → U16) : List Act :=
  (List.finRange n).flatMap fun k =>
    (List.finRange 2).flatMap fun b =>
      slotActs cfg ⟨lo + k.val, by omega⟩ (src k) (slotOf t ⟨lo + k.val, by omega⟩ b)

/-- Whether a slot holds a DAC's address (10_state.md R24). -/
def isDac (cfg : Cfg) (a : BusAddr) : Bool := a == cfg.dacA || a == cfg.dacB

/-- What `LBSET` does for one slot of channel `c` with its pair (44_lightbar.md R165, R166). -/
def lbsetSlotActs (cfg : Cfg) (c : Channel) (pair : LbPair) : Slot → List Act
  | none => []
  | some a =>
    if isDac cfg a then
      let n := min (16 * pair.vb.toNat) 4000
      let m := cfg.lbMuxctl a pair.led (BitVec.ofNat 12 n)
      selectActs cfg c ++ [.write m.1 [m.2.1, m.2.2], .write a (dacBytes n)]
    else []

/-- What `LBSET(slab)` does (44_lightbar.md R166). -/
def lbsetActs (cfg : Cfg) (t : Table) (slab : Fin 2) (p : Vector LbPair 16) : List Act :=
  (List.finRange 8).flatMap fun k =>
    (List.finRange 2).flatMap fun b =>
      lbsetSlotActs cfg (slabChannel slab k) p[pairIndex k b] (slotOf t (slabChannel slab k) b)

/-- What `LBCFG` does for one slot of channel `c` (44_lightbar.md R167). -/
def lbcfgSlotActs (cfg : Cfg) (c : Channel) : Slot → List Act
  | none => []
  | some a =>
    if isDac cfg a then selectActs cfg c ++ (cfg.lbSetup a).map fun w => .write w.1 w.2 else []

/-- What `LBCFG(slab)` does (44_lightbar.md R167; the walk is the spec's decision D20, log 19). -/
def lbcfgActs (cfg : Cfg) (t : Table) (slab : Fin 2) : List Act :=
  (List.finRange 8).flatMap fun k =>
    (List.finRange 2).flatMap fun b =>
      lbcfgSlotActs cfg (slabChannel slab k) (slotOf t (slabChannel slab k) b)

/-- What a scan does on channel `c`: the select, then one probe for each candidate (41_topology_scan.md R120, R121). -/
def scanChannelActs (cfg : Cfg) (c : Channel) : List Act :=
  selectActs cfg c ++ cfg.candidates.map fun a => .write a cfg.probePayload.toList

/-- What `SCAN()` does (41_topology_scan.md R120). -/
def scanActs (cfg : Cfg) : List Act := (List.finRange 16).flatMap (scanChannelActs cfg)

/-- The slot list of a channel from the addresses that acknowledged, in probing order: the first two
(41_topology_scan.md R123). -/
def firstTwo (acked : List BusAddr) : Vector Slot 2 := #v[acked[0]?, acked[1]?]

/-- The record of one channel of a scan: the events of its select and of its probes. -/
structure ScanBlock where
  sel : List BusEvent
  probes : List BusEvent

/-- The addresses that acknowledged a probe. -/
def ScanBlock.acked (b : ScanBlock) : List BusAddr := (b.probes.filter (·.ack)).map (·.addr)

/-- The events of a scan, channel by channel. -/
def scanEvents (bs : Channel → ScanBlock) : List Event :=
  (List.finRange 16).flatMap fun c => ((bs c).sel ++ (bs c).probes).map Event.bus

/-- From `s` to `t` the machine recorded one scan and the table is what its probes' acknowledge bits say
(41_topology_scan.md R120 to R126). -/
def ScanOutcome (cfg : Cfg) (s t : State) (rest : List Event) : Prop :=
  ∃ bs : Channel → ScanBlock,
    t.trace = s.trace ++ scanEvents bs ++ rest ∧
    ∀ c : Channel,
      (bs c).sel.map (fun e => Act.write e.addr e.bytes) = selectActs cfg c ∧
      (bs c).probes.map (fun e => (e.addr, e.bytes)) = cfg.candidates.map (fun a => (a, cfg.probePayload.toList)) ∧
      t.table[c] = firstTwo (bs c).acked

/-! The good states. -/

/-- The invariants of TABLE (10_state.md R23). -/
structure TableWf (cfg : Cfg) (t : Table) : Prop where
  recognized : ∀ c b a, slotOf t c b = some a → a ∈ cfg.candidates
  filledFromZero : ∀ c, slotOf t c 1 ≠ none → slotOf t c 0 ≠ none
  noRepeat : ∀ c, slotOf t c 0 = slotOf t c 1 → slotOf t c 0 = none
  priorityOrder : ∀ c x y, slotOf t c 0 = some x → slotOf t c 1 = some y →
    cfg.candidates.idxOf x < cfg.candidates.idxOf y

/-- Every present entry of a table is a device address, which every table that meets R23 is (10_state.md R23, R24). -/
def Recognized (cfg : Cfg) (t : Table) : Prop := ∀ c b a, slotOf t c b = some a → devType cfg (some a) ≠ .unknown

/-- DESYNC holds 0..4 (10_state.md R20), the table its invariants (R23), the device store its canonical form. -/
structure Inv (s : State) : Prop where
  desync : s.desync.toNat ≤ 4
  table : TableWf Config.cfg s.table
  dev : devWf s.dev

/-- The request that the next step takes is a whole frame. -/
def NextRequest (s : State) (req : Frame) : Prop := s.requests.head? = some req.toList

/-- The bytes of the request that a command reads, by frame index (30_encoding.md R85, R89). -/
def readsByte : Instr → Nat → Bool
  | .allset _ _, _ => true
  | .rescan, k => k ≤ 1
  | .slab0set _ _, k => k ≤ 19
  | .slab1set _, k => k ≤ 1 || (4 ≤ k && k ≤ 19)
  | .lb1set _, k => k ≤ 1 || 4 ≤ k
  | .lb0set _, k => k ≤ 1 || 4 ≤ k
  | .nop2 _, k => k ≤ 1
  | .desyncEnter _, k => k = 0
  | .bypass, _ => false

/-- The commands that write voltages: the three voltage commands and the safe pattern (42_voltage_encode.md R141). -/
def writesVoltages : Instr → Bool
  | .allset _ _ => true
  | .slab0set _ _ => true
  | .slab1set _ => true
  | .desyncEnter _ => true
  | .rescan => false
  | .lb1set _ => false
  | .lb0set _ => false
  | .nop2 _ => false
  | .bypass => false

/-- The raw value a voltage command has for channel `c`, none for a channel it does not set (45_commands.md R182, R184, R185,
R189). -/
def voltageFor (cfg : Cfg) (i : Instr) (c : Channel) : Option U16 :=
  match i with
  | .allset _ v => some v[c]
  | .slab0set _ v => if h : c.val < 8 then some v[c.val] else none
  | .slab1set v => if h : 8 ≤ c.val then some v[c.val - 8] else none
  | .desyncEnter _ => some cfg.safeRaw[c]
  | .rescan => none
  | .lb1set _ => none
  | .lb0set _ => none
  | .nop2 _ => none
  | .bypass => none

/-- What a voltage command leaves in the device with address `a` behind channel `c`, where the table names it, the board has
it and its type takes voltages; none where it leaves the device alone (42_voltage_encode.md R139, R141). -/
def deviceTarget (cfg : Cfg) (i : Instr) (t : Table) (topo : Topology) (c : Channel) (a : BusAddr) :
    Option (List Byte) :=
  if (slotOf t c 0 = some a ∨ slotOf t c 1 = some a) ∧ topo[c].contains a = true then
    (voltageFor cfg i c).bind fun raw => deviceBytes cfg a (clampNat raw.toNat)
  else none

/-- The commands that write the pins (43_pin_demux.md R159). -/
def writesPins : Instr → Bool
  | .allset _ _ => true
  | .slab0set _ _ => true
  | .desyncEnter _ => true
  | .slab1set _ => false
  | .rescan => false
  | .lb1set _ => false
  | .lb0set _ => false
  | .nop2 _ => false
  | .bypass => false

/-- A bus write a device of this kind may be sent by a voltage command: a multiplexer one byte with at most one bit set, a
DAC a 12-bit value of at most `0xFA0`, a potentiometer a byte in 3..128 (60_exceptions.md R235). -/
def SafeWrite (cfg : Cfg) (a : BusAddr) (bytes : List Byte) : Prop :=
  (isMuxAddr cfg a = true ∧ ∃ x : Byte, bytes = [x] ∧ (x = 0 ∨ ∃ i < 8, x = BitVec.ofNat 8 (2 ^ i))) ∨
  (isDac cfg a = true ∧ ∃ hi lo : Byte, bytes = [hi, lo] ∧ hi.toNat * 256 + lo.toNat ≤ 4000) ∨
  (a = cfg.pot ∧ ∃ x : Byte, bytes = [x] ∧ 3 ≤ x.toNat ∧ x.toNat ≤ 128)

/-- How many slots of a table hold an address. -/
def presentSlots (t : Table) : Nat :=
  ((List.finRange 16).flatMap fun c => (List.finRange 2).filter fun b => (slotOf t c b).isSome).length

/-- Channel blocks of the sizes a scan makes: three select writes and one probe for each candidate. -/
def ScanShape (cfg : Cfg) (bs : Channel → ScanBlock) : Prop :=
  ∀ c, (bs c).sel.length = 3 ∧ (bs c).probes.length = cfg.candidates.length

/-- The masks written to the pins, in order. -/
def pinEvents (es : List Event) : List U16 :=
  es.filterMap fun e => match e with
    | .bus _ => none
    | .pins m => some m

/-- Nothing the link master can see or send, and no register, distinguishes the two states; what the environment answered
may differ (60_exceptions.md R222). -/
structure SameBlock (s t : State) : Prop where
  desync : s.desync = t.desync
  table : s.table = t.table
  pin : s.pin = t.pin
  rx : s.rx = t.rx
  tx : s.tx = t.tx

end Sys2Proof.Machine
end

