-- ==== Sys2Proof/Certificates/Slice0/Obligations.lean ====
section
/-! DEFINITION. The statements about the machine, each a def `Obligations.<Name> : Prop`. "Spec's decision D<n>" marks a clause
that rests on a choice of the spec itself (92_eei_decisions.md); "log <n>" a choice of the model (notes/assumptions). -/

open Sys2Proof Sys2Proof.Machine

/-! Encoding. -/

/-- Decoding the frame of a well-formed command gives the command back, every operand at every value (30_encoding.md
sections 2 and 3). The zero bytes the encoder puts in ignored places are R91's convention (log 18). -/
def Obligations.DecodeOfEncodeIsTheInstruction : Prop :=
  ∀ (i : Instr) (f : Frame), i.wellFormed = true → encode i = some f → decodeFrame f = i

/-- Every command but BYPASS has an encoding (30_encoding.md R92, last sentence). -/
def Obligations.OnlyBypassHasNoEncoding : Prop :=
  ∀ i : Instr, encode i = none ↔ i = .bypass

/-- The first row of the opcode table that matches the first two bytes is the decoded command's (30_encoding.md section 7). -/
def Obligations.DecoderFollowsTheOpcodeTable : Prop :=
  ∀ f : Frame, firstRow (opWord f) = some (decodeFrame f).mnemonic

/-- Every exchange's command is well formed, so the map is total (30_encoding.md section 3, R87). -/
def Obligations.EveryFrameDecodesToAWellFormedCommand : Prop :=
  ∀ (d : BitVec 3) (f : Frame), (decodeExchange d f).wellFormed = true

/-- A field a command does not read is ignored: frames that agree on the bytes it reads decode alike (30_encoding.md
section 4, R89). -/
def Obligations.DecodingIgnoresFieldsTheCommandDoesNotRead : Prop :=
  ∀ f g : Frame, (∀ k : Fin 36, readsByte (decodeFrame f) k.val = true → f[k] = g[k]) → decodeFrame g = decodeFrame f

/-- No byte a command reads is lost: encoding the decoded command writes it back where it stood (30_encoding.md R81, R85). -/
def Obligations.EncodingKeepsEveryByteTheCommandReads : Prop :=
  ∀ f g : Frame, encode (decodeFrame f) = some g →
    ∀ k : Fin 36, readsByte (decodeFrame f) k.val = true → g[k] = f[k]

/-- Desync is seen by one test only: DESYNC = 0 and byte 0 not 0xFF (60_exceptions.md R224). -/
def Obligations.DesyncIsDetectedByByteZeroAlone : Prop :=
  ∀ (d : BitVec 3) (f : Frame), (∃ b, decodeExchange d f = .desyncEnter b) ↔ d = 0 ∧ f[0] ≠ 0xFF

/-- Request frames of 95_test_vectors.md (P2 t=5, P2 t=6, P4 t=3, P2 t=4) decode to the commands they stand for. -/
def Obligations.SampleFramesDecodeAsTheSpecSays : Prop :=
  decode ([0xFF, 0xFE] ++ List.replicate 34 0) = .ok .rescan ∧
  decode ([0xFF, 0x42] ++ List.replicate 30 0 ++ List.replicate 4 9) = .ok (.nop2 0x42) ∧
  decode ([0xFF, 0xFF, 0x00, 0x0F, 0x01, 0x23] ++ List.replicate 30 0) =
    .ok (.allset 0x000F #v[0x0123, 0, 0, 0, 0, 0, 0, 0, 0, 0, 0, 0, 0, 0, 0, 0]) ∧
  decode (List.replicate 36 0) = .ok (.desyncEnter 0)

/-- A transfer decodes exactly when it has 36 bytes; any other is rejected by its length (30_encoding.md section 1; that
it is rejected is U6). -/
def Obligations.OnlyThirtySixByteTransfersDecode : Prop :=
  ∀ bytes : List Byte, (bytes.length = 36 → ∃ i, decode bytes = .ok i) ∧
    (bytes.length ≠ 36 → decode bytes = .error (.frameLength bytes.length))

/-- The 16-bit fields are big-endian (20_memory.md R58, R59; spec's decisions D13, D14). -/
def Obligations.SixteenBitFieldsAreBigEndian : Prop :=
  ∀ f : Frame, (pinMask f).toNat = f[2].toNat * 256 + f[3].toNat ∧
    ∀ k : Fin 16, (rawField f k).toNat = f[4 + 2 * k.val].toNat * 256 + f[5 + 2 * k.val].toNat

/-! Values. -/

/-- Properties of `CLAMP12` (42_voltage_encode.md R136): bounded, blind to bits 15..12, idempotent, and non-decreasing on
0..4095. -/
def Obligations.ClampIsBoundedIdempotentAndMonotoneBelow4096 : Prop :=
  (∀ raw : U16, (clamp12 raw).toNat ≤ 4000) ∧
  (∀ raw : U16, clamp12 raw = clamp12 (BitVec.ofNat 16 (raw.toNat % 4096))) ∧
  (∀ raw : U16, clamp12 ((clamp12 raw).zeroExtend 16) = clamp12 raw) ∧
  (∀ x y : U16, x.toNat ≤ y.toNat → y.toNat < 4096 → (clamp12 x).toNat ≤ (clamp12 y).toNat)

/-- The wiper byte of a clamped value is in 3..128, and a larger value gives no larger byte (42_voltage_encode.md R138). -/
def Obligations.WiperByteIsInvertedAndInRange : Prop :=
  (∀ raw : U16, 3 ≤ (encPot (clamp12 raw)).toNat ∧ (encPot (clamp12 raw)).toNat ≤ 128) ∧
  (∀ v w : U12, v.toNat ≤ w.toNat → (encPot w).toNat ≤ (encPot v).toNat)

/-- `LBSCALE` (44_lightbar.md R165): `CLAMP12 (vb * 16)`, which is `16 * vb` up to 250 and 4000 above. -/
def Obligations.LightbarScaleIsSixteenFoldUpToTheCeiling : Prop :=
  ∀ vb : Byte, lbScale vb = clamp12 (BitVec.ofNat 16 (vb.toNat * 16)) ∧
    (lbScale vb).toNat = if vb.toNat ≤ 250 then 16 * vb.toNat else 4000

/-- The device type is a function of the address, by the five addresses of a valid configuration (10_state.md R24). -/
def Obligations.DeviceTypeIsAFunctionOfTheAddress : Prop :=
  ∀ a : Slot,
    (devType Config.cfg a = .dac ↔ a = some Config.cfg.dacA ∨ a = some Config.cfg.dacB) ∧
    (devType Config.cfg a = .pot ↔ a = some Config.cfg.pot) ∧
    (devType Config.cfg a = .unknown ↔
      a ≠ some Config.cfg.dacA ∧ a ≠ some Config.cfg.dacB ∧ a ≠ some Config.cfg.pot)

/-- The source's two worked properties (42_voltage_encode.md R143): a potentiometer is sent 3 for 0x0FA0; a DAC is sent 0,
not the ceiling, for 0x1000; for raw values up to 4095 masking changes nothing. -/
def Obligations.WorkedVoltageWrites : Prop :=
  (∀ s, Issues s (writeV Config.cfg (some Config.cfg.pot) 0x0FA0 s) [.write Config.cfg.pot [0x03]]) ∧
  (∀ s, Issues s (writeV Config.cfg (some Config.cfg.dacA) 0x1000 s) [.write Config.cfg.dacA [0x00, 0x00]]) ∧
  (∀ raw : U16, raw.toNat ≤ 4095 → (clamp12 raw).toNat = min raw.toNat 4000)

/-- `PINAPPLY` (43_pin_demux.md R155): all 16 pins take the mask, pin `j` its bit `j`, with no bus write and no other state;
the source's MSB-first loop gives the same pins from any earlier ones. That the call is recorded as one pin event is R156,
an inference of the spec, and log 16. -/
def Obligations.PinsTakeTheMaskBitForBit : Prop :=
  ∀ (mask : U16) (s : State),
    (pinApply mask s).pin = mask ∧
    (∀ j : Fin 16, (pinApply mask s).pin.getLsbD j.val = mask.getLsbD j.val) ∧
    (pinApply mask s = { s with pin := mask, trace := s.trace ++ [.pins mask] }) ∧
    (∀ before : U16, forFin 16 (setPinMsbFirst mask) before = mask)

/-! The bus. -/

/-- `BusWrite` (20_memory.md R50): it records the transaction with its acknowledge bit, writes no block state, and reads
none: what it does depends on the environment and the history alone. -/
def Obligations.BusWriteReadsAndWritesNoBlockState : Prop :=
  ∀ (a : BusAddr) (bytes : List Byte) (s u : State),
    (busWrite Config.cfg a bytes s).2.trace = s.trace ++ [.bus ⟨a, bytes, (busWrite Config.cfg a bytes s).1⟩] ∧
    BusOnly s (busWrite Config.cfg a bytes s).2 ∧
    (s.answers = u.answers → s.bench = u.bench → s.muxctl = u.muxctl → s.dev = u.dev → s.trace = u.trace →
      (busWrite Config.cfg a bytes s).1 = (busWrite Config.cfg a bytes u).1 ∧
      (busWrite Config.cfg a bytes s).2.muxctl = (busWrite Config.cfg a bytes u).2.muxctl ∧
      (busWrite Config.cfg a bytes s).2.dev = (busWrite Config.cfg a bytes u).2.dev ∧
      (busWrite Config.cfg a bytes s).2.trace = (busWrite Config.cfg a bytes u).2.trace)

/-- A write that is not acknowledged, or has no data, changes no device (20_memory.md R54; spec's decision D31). -/
def Obligations.FailedOrEmptyWriteChangesNoDevice : Prop :=
  ∀ (a : BusAddr) (bytes : List Byte) (s : State),
    ((busWrite Config.cfg a bytes s).1 = false ∨ bytes = []) →
      (busWrite Config.cfg a bytes s).2.muxctl = s.muxctl ∧ (busWrite Config.cfg a bytes s).2.dev = s.dev

/-- `SELECT` (40_channel_select.md R110, R111, R113; spec's decisions D18, D28): three writes of one byte for a channel in
range, whatever is acknowledged, and nothing at all for one above 15. -/
def Obligations.SelectMakesThreeWritesOrNone : Prop :=
  ∀ (chan : Byte) (s : State),
    (∀ h : chan.toNat < 16, BusOnly s (select Config.cfg chan s) ∧
      Issues s (select Config.cfg chan s) (selectActs Config.cfg ⟨chan.toNat, h⟩)) ∧
    (16 ≤ chan.toNat → select Config.cfg chan s = s)

/-- If the three writes of a select are acknowledged, its channel is routed and no other (40_channel_select.md R114, with
multiplexers as in 20_memory.md R66, the spec's own test environment). -/
def Obligations.AcknowledgedSelectRoutesItsChannelAlone : Prop :=
  ∀ (c : Channel) (s : State) (evs : List BusEvent),
    (select Config.cfg (chanByte c) s).trace = s.trace ++ evs.map Event.bus → (∀ e ∈ evs, e.ack = true) →
    ∀ d : Channel, routed (select Config.cfg (chanByte c) s).muxctl d = true ↔ d = c

/-! The commands. -/

/-- ALLSET (45_commands.md R182; spec's decisions D15, D16, D25): it completes; the pins are the mask, set first; then every
present slot of channels 0..15 is selected and written with its channel's value; no other register changes. -/
def Obligations.AllsetSetsPinsThenEveryPresentSlot : Prop :=
  ∀ (pins : U16) (v : Vector U16 16) (s : State), ∃ t, exec (.allset pins v) s = .next t ∧
    BusOnly { s with pin := pins } t ∧
    Issues s t (.pins pins :: vsetActs Config.cfg s.table 0 16 (by decide) (fun k => v[k]))

/-- SLAB0SET (45_commands.md R184; spec's decisions D15, D16): the pins, then channels 0..7; no other register changes. -/
def Obligations.Slab0setSetsPinsThenChannels0To7 : Prop :=
  ∀ (pins : U16) (v : Vector U16 8) (s : State), ∃ t, exec (.slab0set pins v) s = .next t ∧
    BusOnly { s with pin := pins } t ∧
    Issues s t (.pins pins :: vsetActs Config.cfg s.table 0 8 (by decide) (fun k => v[k]))

/-- SLAB1SET (45_commands.md R185; spec's decisions D15, D16): channels 8..15 take values 0..7; the pins are not written;
no register changes. -/
def Obligations.Slab1setWritesChannels8To15WithoutPins : Prop :=
  ∀ (v : Vector U16 8) (s : State), ∃ t, exec (.slab1set v) s = .next t ∧
    BusOnly s t ∧ Issues s t (vsetActs Config.cfg s.table 8 8 (by decide) (fun k => v[k]))

/-- LB1SET and LB0SET (45_commands.md R186, R187; 44_lightbar.md R166, spec's decision D19): every DAC slot of the named slab
is selected, sent its mux-control write and its scaled value; other slots are skipped; no register changes. -/
def Obligations.LightbarSetsServeTheDacSlotsOfTheirSlab : Prop :=
  ∀ (p : Vector LbPair 16) (s : State),
    (∃ t, exec (.lb1set p) s = .next t ∧ BusOnly s t ∧ Issues s t (lbsetActs Config.cfg s.table 1 p)) ∧
    (∃ t, exec (.lb0set p) s = .next t ∧ BusOnly s t ∧ Issues s t (lbsetActs Config.cfg s.table 0 p))

/-- RESCAN (45_commands.md R183): the frames FF FE, whatever bytes 2..35 hold, run it; it makes one scan, after which the
table is what its probes' acknowledge bits say, then the two lightbar configurations, which read the new table; only the
table changes. The exact writes rest on the spec's decisions D18, the order of the resets in each select
(40_channel_select.md R110), and D20, the walk of the lightbar configuration (44_lightbar.md R167), which the model follows
(log 19). -/
def Obligations.RescanReplacesTheTableThenConfiguresBothSlabs : Prop :=
  (∀ f : Frame, f[0] = 0xFF → f[1] = 0xFE → decodeFrame f = .rescan) ∧
  ∀ s : State, ∃ t rest, exec .rescan s = .next t ∧
    BusOnly { s with table := t.table } t ∧
    ScanOutcome Config.cfg s t rest ∧
    rest.map actOf = lbcfgActs Config.cfg t.table 0 ++ lbcfgActs Config.cfg t.table 1

/-- NOP2 (45_commands.md R188; spec's decision D6): it completes and changes nothing but the diagnostics. -/
def Obligations.Nop2ChangesNothing : Prop :=
  ∀ (b : Byte) (s : State), ∃ t, exec (.nop2 b) s = .next t ∧ DiagsOnly s t

/-- DESYNC_ENTER (45_commands.md R189; spec's decisions D12, D32): it completes; DESYNC is loaded with 4, the pins with the
safe mask, and every present slot is written with the safe pattern; the table is kept and nothing is saved. -/
def Obligations.DesyncEnterLoadsTheCounterAndTheSafePattern : Prop :=
  ∀ (b : Byte) (s : State), ∃ t, exec (.desyncEnter b) s = .next t ∧
    BusOnly { s with desync := 4, pin := Config.cfg.safePinMask } t ∧
    Issues s t (.pins Config.cfg.safePinMask ::
      vsetActs Config.cfg s.table 0 16 (by decide) (fun k => Config.cfg.safeRaw[k]))

/-- BYPASS (45_commands.md R190; spec's decision D21): for DESYNC in 1..4 it completes, DESYNC is one less, and nothing else
changes. -/
def Obligations.BypassCountsDownByOne : Prop :=
  ∀ s : State, 1 ≤ s.desync.toNat → s.desync.toNat ≤ 4 →
    ∃ t, exec .bypass s = .next t ∧ t = { s with desync := t.desync } ∧ t.desync.toNat = s.desync.toNat - 1

/-- BYPASS outside RECOVERING(1..4) is refused by name: 5..7 by U11, 0 by the model's choice (log 14). -/
def Obligations.BypassOutsideRecoveryIsRefused : Prop :=
  ∀ s : State, (s.desync = 0 ∨ 4 < s.desync.toNat) → exec .bypass s = .refused (.desyncOutsideRecovery s.desync)

/-! What no command does. -/

/-- Only ALLSET, SLAB0SET and DESYNC_ENTER write the pins (43_pin_demux.md R159): every other command leaves PIN as it was
and makes no pin event, whatever its frame holds. -/
def Obligations.OtherCommandsLeaveThePins : Prop :=
  ∀ (i : Instr) (s t : State), writesPins i = false → exec i s = .next t →
    t.pin = s.pin ∧ ∃ evs, t.trace = s.trace ++ evs ∧ pinEvents evs = []

/-- The frame of every command at once (45_commands.md R193): TABLE changes only in RESCAN, DESYNC only in DESYNC_ENTER (to
4) and BYPASS (by one), and no command writes RX, TX or the link. -/
def Obligations.CommandsChangeOnlyTheirOwnRegisters : Prop :=
  ∀ (i : Instr) (s t : State), exec i s = .next t →
    (i ≠ .rescan → t.table = s.table) ∧
    ((∀ b, i ≠ .desyncEnter b) → i ≠ .bypass → t.desync = s.desync) ∧
    ((∃ b, i = .desyncEnter b) → t.desync = 4) ∧
    (i = .bypass → t.desync = s.desync - 1) ∧
    t.rx = s.rx ∧ t.tx = s.tx ∧ t.booted = s.booted ∧ t.requests = s.requests ∧ t.replies = s.replies ∧
    t.bench = s.bench

/-- Outside RESCAN no acknowledge bit reaches block state or the list of writes (60_exceptions.md R222): from states that
differ only in the environment, a command leaves the same block state and does the same. -/
def Obligations.AcknowledgeBitsReachBlockStateOnlyInAScan : Prop :=
  ∀ (i : Instr) (s u s' u' : State), i ≠ .rescan → SameBlock s u → exec i s = .next s' → exec i u = .next u' →
    SameBlock s' u' ∧ ∃ as, Issues s s' as ∧ Issues u u' as

/-- Every bus write of a voltage command is one its device may be sent (60_exceptions.md R235, 42_voltage_encode.md R136,
R138): a multiplexer byte with at most one bit set, a DAC value of at most 4000, a wiper byte in 3..128. -/
def Obligations.VoltageCommandsWriteOnlySafeValues : Prop :=
  ∀ (i : Instr) (s t : State), writesVoltages i = true → exec i s = .next t →
    ∃ evs, t.trace = s.trace ++ evs ∧ ∀ e, Event.bus e ∈ evs → SafeWrite Config.cfg e.addr e.bytes

/-- The number of bus writes of a voltage set is four for each present slot, whatever is acknowledged (42_voltage_encode.md
R142; four for each slot by the spec's decision D17, log 19), here of ALLSET from a state whose table holds device addresses
alone, with one pin event (43_pin_demux.md R156, an inference of the spec; log 16). -/
def Obligations.AllsetMakesFourWritesForEachPresentSlot : Prop :=
  ∀ (pins : U16) (v : Vector U16 16) (s t : State), Recognized Config.cfg s.table → exec (.allset pins v) s = .next t →
    (busHistory t).length = (busHistory s).length + 4 * presentSlots s.table ∧
    ∃ evs, t.trace = s.trace ++ evs ∧ pinEvents evs = [pins]

/-- With an empty table the voltage and lightbar commands make no bus write (41_topology_scan.md R124): only the pins are
set, where the command sets them. -/
def Obligations.EmptyTableMeansNoBusWrite : Prop :=
  ∀ (i : Instr) (s t : State), s.table = emptyTable → i ≠ .rescan → exec i s = .next t →
    ∃ evs, t.trace = s.trace ++ evs ∧ ∀ e, Event.bus e ∉ evs

/-! The scan. -/

/-- After a scan the table meets its invariants, and it is a function of the probes' acknowledge bits and the candidates
alone (41_topology_scan.md R126). -/
def Obligations.ScanTableIsWellFormedAndDependsOnProbesAlone : Prop :=
  (∀ s : State, TableWf Config.cfg (scan Config.cfg s).table) ∧
  (∀ (s u : State) (bs cs : Channel → ScanBlock),
    ScanShape Config.cfg bs → ScanShape Config.cfg cs →
    (scan Config.cfg s).trace = s.trace ++ scanEvents bs → (scan Config.cfg u).trace = u.trace ++ scanEvents cs →
    (∀ c, (bs c).probes.map (·.ack) = (cs c).probes.map (·.ack)) →
    (scan Config.cfg s).table = (scan Config.cfg u).table)

/-- In the test environment of 20_memory.md R66 and R67 (the spec's own, D31), whatever the multiplexers held before, a
voltage command leaves in every device that it is meant for (the table names it, the board has it, its channel is in the
command's range) that channel's encoded value, and every other device register as it was. -/
def Obligations.VoltageCommandsReachExactlyTheirDevices : Prop :=
  ∀ (i : Instr) (s t : State) (topo : Topology), writesVoltages i = true → s.bench = some topo → s.answers = [] →
    exec i s = .next t → ∀ (c : Channel) (a : BusAddr),
      devRead (devKey c a) t.dev =
        match deviceTarget Config.cfg i s.table topo c a with
        | some bytes => some bytes
        | none => devRead (devKey c a) s.dev

/-! The step. -/

/-- A step runs the decoded instruction: with a request frame waiting at a booted block, the reply sent is TX, the request is
latched, the command that DESYNC and the frame select is run, and ECHO builds the next reply (45_commands.md R180). -/
def Obligations.StepRunsTheDecodedCommand : Prop :=
  ∀ (s : State) (req : Frame), s.booted = true → NextRequest s req →
    step s = match exec (decodeExchange s.desync req)
        { s with replies := s.replies ++ [s.tx], rx := req, requests := s.requests.tail } with
      | .next t => .next { t with tx := echoFrame t.rx t.tx }
      | .fault r => .fault r
      | .refused r => .refused r

/-- Every exchange completes (60_exceptions.md R229): for DESYNC in 0..4 a step answers a next state unless the transfer
that arrives is not 36 bytes, the only reason for which it is refused, and no step of any state faults. -/
def Obligations.EveryExchangeCompletes : Prop :=
  ∀ s : State,
    (s.desync.toNat ≤ 4 →
      ((∀ bytes, s.requests.head? = some bytes → bytes.length = 36) → ∃ t, step s = .next t) ∧
      (∀ r, step s = .refused r → ∃ bytes, s.requests.head? = some bytes ∧ bytes.length ≠ 36 ∧
        r = .frameLength bytes.length)) ∧
    ∀ r, step s ≠ .fault r

/-- The transitions of DESYNC over one exchange, complete (45_commands.md R191); a bypassed exchange executes nothing. -/
def Obligations.DesyncTransitionsOverAnExchange : Prop :=
  ∀ (s : State) (req : Frame), s.booted = true → s.desync.toNat ≤ 4 → NextRequest s req → ∃ t, step s = .next t ∧
    (s.desync = 0 → req[0] = 0xFF → t.desync = 0) ∧
    (s.desync = 0 → req[0] ≠ 0xFF → t.desync = 4) ∧
    (s.desync ≠ 0 → t.desync.toNat = s.desync.toNat - 1 ∧ t.table = s.table ∧ t.pin = s.pin ∧ t.trace = s.trace ∧
      t.dev = s.dev ∧ t.muxctl = s.muxctl)

/-- The reply of the second of two exchanges echoes the first request: bytes 0..3 and 32..35, zeros in 5..31, whatever the
requests are (46_frame_echo.md R212; spec's decisions D3, D4). Byte 4 is as the reply before had it by the spec's decision D5
alone, which the model follows (log 10); U1 would let it be any value. -/
def Obligations.ReplyEchoesThePreviousRequest : Prop :=
  ∀ (s t u : State) (first second : Frame), s.booted = true → NextRequest s first → step s = .next t →
    NextRequest t second → step t = .next u →
    ∃ r : Frame, u.replies = s.replies ++ [s.tx, r] ∧
      ∀ k : Fin 36, r[k] = if k.val ≤ 3 then first[k] else if k.val = 4 then s.tx[k]
        else if k.val ≤ 31 then 0 else first[k]

/-- Recovery ends by count (60_exceptions.md R226): from RECOVERING(4), four exchanges, whatever their frames hold, take
DESYNC through 3, 2, 1 to 0; pins, table, devices and the record of actions stay as they were, and the next exchange is
dispatched. -/
def Obligations.RecoveryEndsAfterFourExchanges : Prop :=
  ∀ (s : State) (a b c d : Frame) (rest : List (List Byte)), s.booted = true → s.desync = 4 →
    s.requests = a.toList :: b.toList :: c.toList :: d.toList :: rest →
    ∀ n : Fin 5, ∃ t, Host.Core.run Sys2Proof.core n.val s = .next t ∧ t.desync.toNat = 4 - n.val ∧
      t.pin = s.pin ∧ t.table = s.table ∧ t.dev = s.dev ∧ t.muxctl = s.muxctl ∧ t.trace = s.trace ∧
      (n = 4 → t.requests = rest ∧ ∀ f, decodeExchange t.desync f = decodeFrame f)

/-- A stream of frames whose byte 0 is bad applies the safe pattern, pins and voltages (45_commands.md R189), once every
five exchanges (R192), for any number of windows from a synchronized block, and nothing else is done. -/
def Obligations.BadFramesApplyTheSafePatternOncePerWindow : Prop :=
  ∀ (n : Nat) (s : State) (frames : List Frame), s.booted = true → s.desync = 0 → frames.length = 5 * n →
    (∀ f ∈ frames, f[0] ≠ 0xFF) → s.requests = frames.map (·.toList) →
    ∃ t, Host.Core.run Sys2Proof.core (5 * n) s = .next t ∧ t.desync = 0 ∧ t.table = s.table ∧
      Issues s t (List.replicate n (.pins Config.cfg.safePinMask ::
        vsetActs Config.cfg s.table 0 16 (by decide) (fun k => Config.cfg.safeRaw[k]))).flatten

/-- BOOT (70_reset_and_hazards.md R252; spec's decision D24): the first step is one scan and nothing else. The order of the
resets in each of its selects is the spec's decision D18 (log 19). -/
def Obligations.BootIsOneScan : Prop :=
  ∀ s : State, s.booted = false → ∃ t, step s = .next t ∧
    BusOnly { s with table := t.table, booted := true } t ∧ ScanOutcome Config.cfg s t []

/-- With no request the block does nothing (60_exceptions.md R230). -/
def Obligations.NothingHappensBetweenExchanges : Prop :=
  ∀ s : State, s.booted = true → s.requests = [] → step s = .next s

/-- A transfer that is not 36 bytes is refused by its length (93_implementation_defined.md U6; log 13). -/
def Obligations.OtherTransfersAreRefused : Prop :=
  ∀ (s : State) (bytes : List Byte), s.booted = true → s.requests.head? = some bytes → bytes.length ≠ 36 →
    step s = .refused (.frameLength bytes.length)

/-- A configuration is admitted exactly when its five addresses are pairwise different and its candidate list is of the type
00_scope.md R6 gives. That equal addresses are refused is R7 (spec's decision D8, U8); that a candidate list with a repeat or
a foreign address is refused in the same way is the model's choice (log 8). -/
def Obligations.InvalidConfigurationsAreRefused : Prop :=
  ∀ c : Cfg, (c.Valid → ∃ h, admitCfg c = .ok ⟨c, h⟩) ∧ (¬ c.Valid → admitCfg c = .error .invalidConfig)

/-! The invariant. -/

/-- Every step keeps DESYNC in 0..4, the table's invariants and the device store's canonical form (10_state.md R20, R23). -/
def Obligations.EveryStepKeepsTheInvariant : Prop :=
  ∀ s t : State, Inv s → step s = .next t → Inv t

/-- The invariant holds at reset. -/
def Obligations.ResetMeetsTheInvariant : Prop := Inv State.reset

/-- Reset (10_state.md R33; 70_reset_and_hazards.md R250): DESYNC is 0, every table entry ABSENT (spec's decision D23), BOOT
has not run; PIN and TX are the free values PIN_RESET and TX_RESET (log 3). -/
def Obligations.ResetValues : Prop :=
  State.reset.desync = 0 ∧ (∀ c b, slotOf State.reset.table c b = none) ∧ State.reset.booted = false ∧
    State.reset.pin = Config.pinReset ∧ State.reset.tx = Config.txReset

/-! The environment. -/

/-- After any command, and after any step (BOOT included), the multiplexers' control bytes and the device store are what the
acknowledged writes recorded in between left, one after another (10_state.md R32; 20_memory.md R54, with devices as in the
spec's own test environment R66, R67, D31; log 6). -/
def Obligations.DevicesHoldWhatTheAcknowledgedWritesLeft : Prop :=
  (∀ (i : Instr) (s t : State), exec i s = .next t → EnvFollows Config.cfg s t) ∧
  (∀ s t : State, step s = .next t → EnvFollows Config.cfg s t)

/-- What a scan leaves behind, for every valid configuration (41_topology_scan.md R128): DESYNC, PIN and TX untouched; with an
empty probe payload no device register changed; in the test environment (the spec's decision D31) channel 15 routed and no
other. -/
def Obligations.ScanLeavesChannel15RoutedAndDevicesAlone : Prop :=
  ∀ (cfg : Cfg) (s : State), cfg.Valid →
    BusOnly { s with table := (scan cfg s).table } (scan cfg s) ∧
    (cfg.probePayload = none → (scan cfg s).dev = s.dev) ∧
    (∀ topo, s.bench = some topo → s.answers = [] → ∀ c, routed (scan cfg s).muxctl c = true ↔ c = 15)

/-- In the test environment (20_memory.md R66, R67, the spec's decision D31), whatever the multiplexers held before, RESCAN
fills each channel's slots with the first two candidates that the board has there (41_topology_scan.md R120, R123). -/
def Obligations.RescanFindsTheDevicesOnTheBoard : Prop :=
  ∀ (s : State) (topo : Topology), s.bench = some topo → s.answers = [] → ∃ t, exec .rescan s = .next t ∧
    ∀ c : Channel, t.table[c] = firstTwo (Config.cfg.candidates.filter fun a => topo[c].contains a)

/-- The multiplexers of the test environment (20_memory.md R66, the spec's decision D31): they start at 0x00 with no channel
routed and acknowledge every write; one byte becomes the control byte, no byte changes nothing. What more bytes leave is
free (log 7). -/
def Obligations.TestMultiplexersAcknowledgeAndHoldOneByte : Prop :=
  (∀ (topo : Topology) (s : State), (s.inBench topo).muxctl = #v[0x00, 0x00] ∧
    ∀ c, routed (s.inBench topo).muxctl c = false) ∧
  (∀ (s : State) (topo : Topology) (m : Fin 2) (bytes : List Byte), s.bench = some topo → s.answers = [] →
    (busWrite Config.cfg (muxAddr Config.cfg m) bytes s).1 = true ∧
    (bytes = [] → (busWrite Config.cfg (muxAddr Config.cfg m) bytes s).2.muxctl = s.muxctl) ∧
    (∀ x, bytes = [x] → (busWrite Config.cfg (muxAddr Config.cfg m) bytes s).2.muxctl = s.muxctl.set m x))
end

