-- ==== Sys2Proof/Laws/State.lean ====
section
/-! SUPPORT. One lemma per field for each elementary update of the state. -/

namespace Sys2Proof.Machine

open Sys2Proof

@[simp] theorem diag_desync (d : Diag) (s : State) : (diag d s).desync = s.desync := rfl
@[simp] theorem diag_table (d : Diag) (s : State) : (diag d s).table = s.table := rfl
@[simp] theorem diag_pin (d : Diag) (s : State) : (diag d s).pin = s.pin := rfl
@[simp] theorem diag_rx (d : Diag) (s : State) : (diag d s).rx = s.rx := rfl
@[simp] theorem diag_tx (d : Diag) (s : State) : (diag d s).tx = s.tx := rfl
@[simp] theorem diag_booted (d : Diag) (s : State) : (diag d s).booted = s.booted := rfl
@[simp] theorem diag_muxctl (d : Diag) (s : State) : (diag d s).muxctl = s.muxctl := rfl
@[simp] theorem diag_dev (d : Diag) (s : State) : (diag d s).dev = s.dev := rfl
@[simp] theorem diag_requests (d : Diag) (s : State) : (diag d s).requests = s.requests := rfl
@[simp] theorem diag_answers (d : Diag) (s : State) : (diag d s).answers = s.answers := rfl
@[simp] theorem diag_bench (d : Diag) (s : State) : (diag d s).bench = s.bench := rfl
@[simp] theorem diag_replies (d : Diag) (s : State) : (diag d s).replies = s.replies := rfl
@[simp] theorem diag_trace (d : Diag) (s : State) : (diag d s).trace = s.trace := rfl
@[simp] theorem diag_diags (d : Diag) (s : State) : (diag d s).diags = s.diags ++ [d] := rfl

@[simp] theorem busWrite_desync (cfg : Cfg) (a : BusAddr) (bytes : List Byte) (s : State) :
    (busWrite cfg a bytes s).2.desync = s.desync := rfl
@[simp] theorem busWrite_table (cfg : Cfg) (a : BusAddr) (bytes : List Byte) (s : State) :
    (busWrite cfg a bytes s).2.table = s.table := rfl
@[simp] theorem busWrite_pin (cfg : Cfg) (a : BusAddr) (bytes : List Byte) (s : State) :
    (busWrite cfg a bytes s).2.pin = s.pin := rfl
@[simp] theorem busWrite_rx (cfg : Cfg) (a : BusAddr) (bytes : List Byte) (s : State) :
    (busWrite cfg a bytes s).2.rx = s.rx := rfl
@[simp] theorem busWrite_tx (cfg : Cfg) (a : BusAddr) (bytes : List Byte) (s : State) :
    (busWrite cfg a bytes s).2.tx = s.tx := rfl
@[simp] theorem busWrite_booted (cfg : Cfg) (a : BusAddr) (bytes : List Byte) (s : State) :
    (busWrite cfg a bytes s).2.booted = s.booted := rfl
@[simp] theorem busWrite_muxctl (cfg : Cfg) (a : BusAddr) (bytes : List Byte) (s : State) :
    (busWrite cfg a bytes s).2.muxctl = if ackOf cfg s a bytes then muxctlAfter cfg s.muxctl a bytes else s.muxctl := rfl
@[simp] theorem busWrite_dev (cfg : Cfg) (a : BusAddr) (bytes : List Byte) (s : State) :
    (busWrite cfg a bytes s).2.dev = if ackOf cfg s a bytes then devAfter cfg s.bench s.muxctl s.dev a bytes else s.dev := rfl
@[simp] theorem busWrite_requests (cfg : Cfg) (a : BusAddr) (bytes : List Byte) (s : State) :
    (busWrite cfg a bytes s).2.requests = s.requests := rfl
@[simp] theorem busWrite_answers (cfg : Cfg) (a : BusAddr) (bytes : List Byte) (s : State) :
    (busWrite cfg a bytes s).2.answers = s.answers.tail := rfl
@[simp] theorem busWrite_bench (cfg : Cfg) (a : BusAddr) (bytes : List Byte) (s : State) :
    (busWrite cfg a bytes s).2.bench = s.bench := rfl
@[simp] theorem busWrite_replies (cfg : Cfg) (a : BusAddr) (bytes : List Byte) (s : State) :
    (busWrite cfg a bytes s).2.replies = s.replies := rfl
@[simp] theorem busWrite_trace (cfg : Cfg) (a : BusAddr) (bytes : List Byte) (s : State) :
    (busWrite cfg a bytes s).2.trace = s.trace ++ [.bus ⟨a, bytes, ackOf cfg s a bytes⟩] := rfl
@[simp] theorem busWrite_diags (cfg : Cfg) (a : BusAddr) (bytes : List Byte) (s : State) :
    (busWrite cfg a bytes s).2.diags = s.diags := rfl
@[simp] theorem busWrite_ack (cfg : Cfg) (a : BusAddr) (bytes : List Byte) (s : State) :
    (busWrite cfg a bytes s).1 = ackOf cfg s a bytes := rfl

@[simp] theorem pinApply_desync (mask : U16) (s : State) : (pinApply mask s).desync = s.desync := rfl
@[simp] theorem pinApply_table (mask : U16) (s : State) : (pinApply mask s).table = s.table := rfl
@[simp] theorem pinApply_pin (mask : U16) (s : State) : (pinApply mask s).pin = mask := rfl
@[simp] theorem pinApply_rx (mask : U16) (s : State) : (pinApply mask s).rx = s.rx := rfl
@[simp] theorem pinApply_tx (mask : U16) (s : State) : (pinApply mask s).tx = s.tx := rfl
@[simp] theorem pinApply_booted (mask : U16) (s : State) : (pinApply mask s).booted = s.booted := rfl
@[simp] theorem pinApply_muxctl (mask : U16) (s : State) : (pinApply mask s).muxctl = s.muxctl := rfl
@[simp] theorem pinApply_dev (mask : U16) (s : State) : (pinApply mask s).dev = s.dev := rfl
@[simp] theorem pinApply_requests (mask : U16) (s : State) : (pinApply mask s).requests = s.requests := rfl
@[simp] theorem pinApply_answers (mask : U16) (s : State) : (pinApply mask s).answers = s.answers := rfl
@[simp] theorem pinApply_bench (mask : U16) (s : State) : (pinApply mask s).bench = s.bench := rfl
@[simp] theorem pinApply_replies (mask : U16) (s : State) : (pinApply mask s).replies = s.replies := rfl
@[simp] theorem pinApply_trace (mask : U16) (s : State) :
    (pinApply mask s).trace = s.trace ++ [.pins mask] := rfl
@[simp] theorem pinApply_diags (mask : U16) (s : State) : (pinApply mask s).diags = s.diags := rfl

@[simp] theorem leaveRecoveryStep_desync (s : State) : (leaveRecoveryStep s).desync = s.desync - 1 := rfl
@[simp] theorem leaveRecoveryStep_table (s : State) : (leaveRecoveryStep s).table = s.table := rfl
@[simp] theorem leaveRecoveryStep_pin (s : State) : (leaveRecoveryStep s).pin = s.pin := rfl
@[simp] theorem leaveRecoveryStep_rx (s : State) : (leaveRecoveryStep s).rx = s.rx := rfl
@[simp] theorem leaveRecoveryStep_tx (s : State) : (leaveRecoveryStep s).tx = s.tx := rfl
@[simp] theorem leaveRecoveryStep_booted (s : State) : (leaveRecoveryStep s).booted = s.booted := rfl
@[simp] theorem leaveRecoveryStep_muxctl (s : State) : (leaveRecoveryStep s).muxctl = s.muxctl := rfl
@[simp] theorem leaveRecoveryStep_dev (s : State) : (leaveRecoveryStep s).dev = s.dev := rfl
@[simp] theorem leaveRecoveryStep_requests (s : State) : (leaveRecoveryStep s).requests = s.requests := rfl
@[simp] theorem leaveRecoveryStep_answers (s : State) : (leaveRecoveryStep s).answers = s.answers := rfl
@[simp] theorem leaveRecoveryStep_bench (s : State) : (leaveRecoveryStep s).bench = s.bench := rfl
@[simp] theorem leaveRecoveryStep_replies (s : State) : (leaveRecoveryStep s).replies = s.replies := rfl
@[simp] theorem leaveRecoveryStep_trace (s : State) : (leaveRecoveryStep s).trace = s.trace := rfl
@[simp] theorem leaveRecoveryStep_diags (s : State) : (leaveRecoveryStep s).diags = s.diags := rfl

@[simp] theorem latch_desync (req : Frame) (s : State) : (latch req s).desync = s.desync := rfl
@[simp] theorem latch_table (req : Frame) (s : State) : (latch req s).table = s.table := rfl
@[simp] theorem latch_pin (req : Frame) (s : State) : (latch req s).pin = s.pin := rfl
@[simp] theorem latch_rx (req : Frame) (s : State) : (latch req s).rx = req := rfl
@[simp] theorem latch_tx (req : Frame) (s : State) : (latch req s).tx = s.tx := rfl
@[simp] theorem latch_booted (req : Frame) (s : State) : (latch req s).booted = s.booted := rfl
@[simp] theorem latch_muxctl (req : Frame) (s : State) : (latch req s).muxctl = s.muxctl := rfl
@[simp] theorem latch_dev (req : Frame) (s : State) : (latch req s).dev = s.dev := rfl
@[simp] theorem latch_requests (req : Frame) (s : State) : (latch req s).requests = s.requests.tail := rfl
@[simp] theorem latch_answers (req : Frame) (s : State) : (latch req s).answers = s.answers := rfl
@[simp] theorem latch_bench (req : Frame) (s : State) : (latch req s).bench = s.bench := rfl
@[simp] theorem latch_replies (req : Frame) (s : State) : (latch req s).replies = s.replies ++ [s.tx] := rfl
@[simp] theorem latch_trace (req : Frame) (s : State) : (latch req s).trace = s.trace := rfl
@[simp] theorem latch_diags (req : Frame) (s : State) : (latch req s).diags = s.diags := rfl

@[simp] theorem echo_desync (s : State) : (echo s).desync = s.desync := by simp only [echo]
@[simp] theorem echo_table (s : State) : (echo s).table = s.table := by simp only [echo]
@[simp] theorem echo_pin (s : State) : (echo s).pin = s.pin := by simp only [echo]
@[simp] theorem echo_rx (s : State) : (echo s).rx = s.rx := by simp only [echo]
@[simp] theorem echo_tx (s : State) : (echo s).tx = echoFrame s.rx s.tx := by simp only [echo]
@[simp] theorem echo_booted (s : State) : (echo s).booted = s.booted := by simp only [echo]
@[simp] theorem echo_muxctl (s : State) : (echo s).muxctl = s.muxctl := by simp only [echo]
@[simp] theorem echo_dev (s : State) : (echo s).dev = s.dev := by simp only [echo]
@[simp] theorem echo_requests (s : State) : (echo s).requests = s.requests := by simp only [echo]
@[simp] theorem echo_answers (s : State) : (echo s).answers = s.answers := by simp only [echo]
@[simp] theorem echo_bench (s : State) : (echo s).bench = s.bench := by simp only [echo]
@[simp] theorem echo_replies (s : State) : (echo s).replies = s.replies := by simp only [echo]
@[simp] theorem echo_trace (s : State) : (echo s).trace = s.trace := by simp only [echo]
@[simp] theorem echo_diags (s : State) : (echo s).diags = s.diags := by simp only [echo]

end Sys2Proof.Machine
end

