-- ==== Sys2Proof/Laws/Ops.lean ====
section
/-! SUPPORT. For each shared operation, once, what it can do: which fields it keeps (`BusOnly`) and what it puts on the bus
(`Issues`). -/

namespace Sys2Proof.Machine

open Sys2Proof

/-! Composition. -/

theorem Issues.refl (s : State) : Issues s s [] := ⟨[], by simp⟩

theorem Issues.trans {s t u : State} {as bs : List Act} (h : Issues s t as) (k : Issues t u bs) :
    Issues s u (as ++ bs) := by
  obtain ⟨e, h1, rfl⟩ := h
  obtain ⟨f, h2, rfl⟩ := k
  exact ⟨e ++ f, by rw [h2, h1, List.append_assoc], by simp⟩

theorem BusOnly.refl (s : State) : BusOnly s s := ⟨rfl, rfl, rfl, rfl, rfl, rfl, rfl, rfl, rfl⟩

theorem BusOnly.trans {s t u : State} (h : BusOnly s t) (k : BusOnly t u) : BusOnly s u :=
  ⟨k.1.trans h.1, k.2.trans h.2, k.3.trans h.3, k.4.trans h.4, k.5.trans h.5, k.6.trans h.6, k.7.trans h.7,
    k.8.trans h.8, k.9.trans h.9⟩

/-- `t` is reached from `s` by bus writes and diagnostics alone, and the writes are `as`. -/
def Traffic (s t : State) (as : List Act) : Prop := BusOnly s t ∧ Issues s t as

theorem Traffic.refl (s : State) : Traffic s s [] := ⟨BusOnly.refl s, Issues.refl s⟩

theorem Traffic.trans {s t u : State} {as bs : List Act} (h : Traffic s t as) (k : Traffic t u bs) :
    Traffic s u (as ++ bs) := ⟨h.1.trans k.1, h.2.trans k.2⟩

/-- The loop: if each turn, from a state whose table is `T`, is traffic `f k`, the loop is their concatenation. -/
theorem forFin_traffic {T : Table} (n : Nat) (body : Fin n → State → State) (f : Fin n → List Act)
    (h : ∀ k s, s.table = T → Traffic s (body k s) (f k)) (s : State) (hs : s.table = T) :
    Traffic s (forFin n body s) ((List.finRange n).flatMap f) := by
  induction n generalizing s with
  | zero => exact Traffic.refl s
  | succ n ih =>
    have h0 := h 0 s hs
    have := ih (fun k => body k.succ) (fun k => f k.succ) (fun k => h k.succ) _ (h0.1.table.trans hs)
    simpa [forFin, List.finRange_succ, List.flatMap_map] using h0.trans this

/-- The loop keeps what every turn keeps. -/
theorem forFin_keeps {σ : Type} {P : σ → Prop} (n : Nat) (body : Fin n → σ → σ) (h : ∀ k s, P s → P (body k s))
    (s : σ) (hs : P s) : P (forFin n body s) := by
  induction n generalizing s with
  | zero => exact hs
  | succ n ih => exact ih (fun k => body k.succ) (fun k => h k.succ) _ (h 0 s hs)

/-! The elementary operations. -/

theorem diag_traffic (d : Diag) (s : State) : Traffic s (diag d s) [] :=
  ⟨⟨rfl, rfl, rfl, rfl, rfl, rfl, rfl, rfl, rfl⟩, ⟨[], by simp⟩⟩

theorem busWrite_traffic (cfg : Cfg) (a : BusAddr) (bytes : List Byte) (s : State) :
    Traffic s (busWrite cfg a bytes s).2 [.write a bytes] :=
  ⟨⟨rfl, rfl, rfl, rfl, rfl, rfl, rfl, rfl, rfl⟩, ⟨_, busWrite_trace cfg a bytes s, rfl⟩⟩

theorem busWriteReport_traffic (cfg : Cfg) (a : BusAddr) (bytes : List Byte) (d : Diag) (s : State) :
    Traffic s (busWriteReport cfg a bytes d s) [.write a bytes] := by
  simp only [busWriteReport]
  split
  · exact busWrite_traffic cfg a bytes s
  · exact (busWrite_traffic cfg a bytes s).trans (diag_traffic d _)

/-! The channel map. -/

theorem chanByte_toNat (c : Channel) : (chanByte c).toNat = c.val := by
  simp [chanByte]; omega

theorem chanByte_not_gt (c : Channel) : ¬ chanByte c > 15 := by
  have := chanByte_toNat c
  simp only [GT.gt, BitVec.lt_def, this]
  have : (15 : Byte).toNat = 15 := rfl
  omega

theorem muxAddr_muxOf (cfg : Cfg) (c : Channel) :
    muxAddr cfg (muxOf (chanByte c)) = if c.val < 8 then cfg.muxAddr0 else cfg.muxAddr1 := by
  unfold muxOf muxAddr
  rw [chanByte_toNat]
  by_cases h : c.val < 8
  · simp [h, Nat.le_of_lt_succ h]
  · simp [h, show ¬ c.val ≤ 7 by omega]

theorem selBit_chanByte : ∀ c : Channel, selBit (chanByte c) = BitVec.ofNat 8 (2 ^ (c.val % 8)) := by
  decide

theorem select_traffic (cfg : Cfg) (c : Channel) (s : State) :
    Traffic s (select cfg (chanByte c) s) (selectActs cfg c) := by
  simp only [select, chanByte_not_gt, if_false]
  rw [muxAddr_muxOf, selBit_chanByte]
  exact ((busWriteReport_traffic _ _ _ _ s).trans (busWriteReport_traffic _ _ _ _ _)).trans
    (busWriteReport_traffic _ _ _ _ _)

/-! The voltage encoding. -/

theorem clamp12_toNat (raw : U16) : (clamp12 raw).toNat = clampNat raw.toNat := by
  have h : (raw.extractLsb' 0 12).toNat = raw.toNat % 4096 := by simp
  simp only [clamp12, clampNat, GT.gt, BitVec.lt_def]
  split <;> rename_i k <;> simp only [h] at k ⊢ <;> simp at k ⊢ <;> omega

theorem encDac_eq (v : U12) : encDac v = dacBytes v.toNat := by
  simp only [encDac, dacBytes, List.cons.injEq, and_true]
  refine ⟨BitVec.eq_of_toNat_eq ?_, BitVec.eq_of_toNat_eq ?_⟩
  · have := v.isLt
    simp [Nat.shiftRight_eq_div_pow]
    omega
  · simp

theorem encPot_eq (v : U12) : encPot v = potByte v.toNat := by
  unfold encPot potByte
  congr 1
  have : (v >>> 5).toNat = v.toNat / 32 := by simp [Nat.shiftRight_eq_div_pow]
  rw [this]
  omega

theorem lbScale_toNat (vb : Byte) : (lbScale vb).toNat = min (16 * vb.toNat) 4000 := by
  have := vb.isLt
  rw [lbScale, clamp12_toNat]
  simp [clampNat]
  omega

theorem lbScale_eq (vb : Byte) : lbScale vb = BitVec.ofNat 12 (min (16 * vb.toNat) 4000) := by
  apply BitVec.eq_of_toNat_eq
  rw [lbScale_toNat]
  simp
  omega

theorem devType_dac_iff (cfg : Cfg) (a : BusAddr) : devType cfg (some a) = .dac ↔ isDac cfg a = true := by
  simp only [devType, isDac, Bool.or_eq_true, beq_iff_eq]
  by_cases h : a = cfg.dacA ∨ a = cfg.dacB
  · simp only [h, if_true]
  · simp only [h, if_false, iff_false]
    split <;> exact fun k => by cases k

/-! WRITEV and VSET. -/

theorem writeReported_traffic (cfg : Cfg) (a : BusAddr) (bytes : List Byte) (v : U12) (s : State) :
    Traffic s (writeReported cfg a bytes v s) [.write a bytes] :=
  (busWrite_traffic cfg a bytes s).trans (diag_traffic _ _)

theorem writeV_traffic (cfg : Cfg) (a : BusAddr) (raw : U16) (s : State) :
    Traffic s (writeV cfg (some a) raw s)
      ((deviceBytes cfg a (clampNat raw.toNat)).map (Act.write a)).toList := by
  simp only [writeV, devType, deviceBytes, encDac_eq, encPot_eq, clamp12_toNat]
  by_cases h : a = cfg.dacA ∨ a = cfg.dacB
  · simp only [if_pos h]
    exact writeReported_traffic cfg a _ _ s
  · by_cases k : a = cfg.pot
    · simp only [if_neg h, if_pos k]
      exact writeReported_traffic cfg a _ _ s
    · simp only [if_neg h, if_neg k]
      exact diag_traffic _ s

theorem writeV_absent_traffic (cfg : Cfg) (raw : U16) (s : State) : Traffic s (writeV cfg none raw s) [] :=
  diag_traffic _ s

theorem vsetSlot_traffic (cfg : Cfg) (c : Channel) (raw : U16) (b : Fin 2) (s : State) :
    Traffic s (vsetSlot cfg c raw b s) (slotActs cfg c raw (slotOf s.table c b)) := by
  unfold vsetSlot
  cases slotOf s.table c b with
  | none => exact Traffic.refl s
  | some a => exact (select_traffic cfg c s).trans (writeV_traffic cfg a raw _)

theorem vsetChannel_traffic (cfg : Cfg) (c : Channel) (raw : U16) (s : State) :
    Traffic s (vsetChannel cfg c raw s)
      ((List.finRange 2).flatMap fun b => slotActs cfg c raw (slotOf s.table c b)) := by
  have key : ∀ u : State, u.table = s.table → Traffic u (forFin 2 (vsetSlot cfg c raw) u)
      ((List.finRange 2).flatMap fun b => slotActs cfg c raw (slotOf s.table c b)) := fun u hu =>
    forFin_traffic 2 _ _ (fun b w hw => by simpa only [hw] using vsetSlot_traffic cfg c raw b w) u hu
  unfold vsetChannel
  split
  · exact (diag_traffic _ s).trans (key _ rfl)
  · exact key s rfl

theorem vset_traffic (cfg : Cfg) (lo n : Nat) (h : lo + n ≤ 16) (src : Fin n → U16) (s : State) :
    Traffic s (vset cfg lo n h src s) (vsetActs cfg s.table lo n h src) :=
  forFin_traffic n _ _ (fun k w hw => by simpa only [hw] using vsetChannel_traffic cfg _ (src k) w) s rfl

/-! PINAPPLY and entry into recovery. -/

theorem pinApply_issues (mask : U16) (s : State) : Issues s (pinApply mask s) [.pins mask] := ⟨_, rfl, rfl⟩

theorem enterRecovery_busOnly (cfg : Cfg) (op0 : Byte) (s : State) :
    BusOnly { s with desync := 4, pin := cfg.safePinMask } (enterRecovery cfg op0 s) := by
  have h := (vset_traffic cfg 0 16 (by decide) (fun k => cfg.safeRaw[k])
    (pinApply cfg.safePinMask { diag (.desync op0) s with desync := recoveryLen })).1
  exact ⟨h.1, h.2, h.3, h.4, h.5, h.6, h.7, h.8, h.9⟩

theorem enterRecovery_issues (cfg : Cfg) (op0 : Byte) (s : State) :
    Issues s (enterRecovery cfg op0 s)
      (.pins cfg.safePinMask :: vsetActs cfg s.table 0 16 (by decide) (fun k => cfg.safeRaw[k])) :=
  Issues.trans (as := [.pins cfg.safePinMask]) (pinApply_issues cfg.safePinMask _)
    (vset_traffic cfg 0 16 (by decide) (fun k => cfg.safeRaw[k])
      (pinApply cfg.safePinMask { diag (.desync op0) s with desync := recoveryLen })).2

/-! The device store. -/

theorem devRead_devWrite_same (k : Nat) (v : List Byte) (d : DevRegs) : devRead k (devWrite k v d) = some v := by
  induction d with
  | nil => simp [devWrite, devRead]
  | cons e d ih =>
    obtain ⟨k', v'⟩ := e
    simp only [devWrite]
    split
    · simp [devRead]
    · split
      · simp [devRead]
      · simp [devRead, *]

theorem devRead_devWrite_other {j k : Nat} (h : j ≠ k) (v : List Byte) (d : DevRegs) :
    devRead j (devWrite k v d) = devRead j d := by
  induction d with
  | nil => simp [devWrite, devRead, h]
  | cons e d ih =>
    obtain ⟨k', v'⟩ := e
    simp only [devWrite]
    split
    · simp [devRead, h]
    · split
      · subst_vars
        simp [devRead, h]
      · simp [devRead, ih]

theorem devWrite_mem {k : Nat} {v : List Byte} {d : DevRegs} {e : Nat × List Byte} (h : e ∈ devWrite k v d) :
    e = (k, v) ∨ e ∈ d := by
  induction d with
  | nil => simpa [devWrite] using h
  | cons x d ih =>
    obtain ⟨k', v'⟩ := x
    simp only [devWrite] at h
    split at h
    · simpa using h
    · split at h
      · rcases List.mem_cons.1 h with h | h
        · exact .inl h
        · exact .inr (List.mem_cons_of_mem _ h)
      · rcases List.mem_cons.1 h with h | h
        · exact .inr (h ▸ List.mem_cons_self)
        · exact (ih h).imp_right (List.mem_cons_of_mem _)

theorem devWrite_wf {k : Nat} {v : List Byte} {d : DevRegs} (hv : v ≠ []) (h : devWf d) : devWf (devWrite k v d) := by
  refine ⟨?_, fun e he => ?_⟩
  · induction d with
    | nil => simp [devWrite]
    | cons x d ih =>
      obtain ⟨k', v'⟩ := x
      obtain ⟨hp, hd⟩ := h
      have hp' := List.pairwise_cons.1 hp
      simp only [devWrite]
      split
      · refine List.pairwise_cons.2 ⟨fun e he => ?_, hp⟩
        rcases List.mem_cons.1 he with rfl | he
        · assumption
        · exact lt_trans ‹_› (hp'.1 e he)
      · split
        · subst_vars
          exact List.pairwise_cons.2 ⟨hp'.1, hp'.2⟩
        · refine List.pairwise_cons.2 ⟨fun e he => ?_, ih ⟨hp'.2, fun e he => hd e (List.mem_cons_of_mem _ he)⟩⟩
          rcases devWrite_mem he with rfl | he
          · simp only
            omega
          · exact hp'.1 e he
  · rcases devWrite_mem he with rfl | he
    · exact hv
    · exact h.2 e he

theorem devAfter_wf {cfg : Cfg} {bench : Option Topology} {ctl : Vector Byte 2} {d : DevRegs} {a : BusAddr}
    {bytes : List Byte} (h : devWf d) : devWf (devAfter cfg bench ctl d a bytes) := by
  unfold devAfter
  split
  · exact h
  · rename_i hk
    have hb : bytes ≠ [] := by rintro rfl; simp at hk
    suffices ∀ (l : List Channel) (d : DevRegs), devWf d → devWf (l.foldl
        (fun acc c => if reaches bench ctl a c then devWrite (devKey c a) bytes acc else acc) d) from this _ _ h
    intro l
    induction l with
    | nil => exact fun d hd => hd
    | cons c l ih =>
      intro d hd
      rw [List.foldl_cons]
      refine ih _ ?_
      split
      · exact devWrite_wf hb hd
      · exact hd

/-- Every bus write keeps the store's canonical form. -/
theorem busWrite_wf {cfg : Cfg} {a : BusAddr} {bytes : List Byte} {s : State} (h : devWf s.dev) :
    devWf (busWrite cfg a bytes s).2.dev := by
  rw [busWrite_dev]
  split
  · exact devAfter_wf h
  · exact h

theorem reset_dev_wf : devWf State.reset.dev := ⟨List.Pairwise.nil, by simp [State.reset]⟩

end Sys2Proof.Machine
end

