-- ==== Sys2Proof/Laws/Lightbar.lean ====
section
/-! SUPPORT. What LBSET and LBCFG can do, once each. -/

namespace Sys2Proof.Machine

open Sys2Proof

theorem lbServe_traffic (cfg : Cfg) (c : Channel) (b : Fin 2) (a : BusAddr) (pair : LbPair) (s : State)
    (ha : isDac cfg a = true) :
    Traffic s (lbServe cfg c b a pair s) (lbsetSlotActs cfg c pair (some a)) := by
  simp only [lbServe, lbsetSlotActs, ha, if_true, encDac_eq, lbScale_toNat, ← lbScale_eq]
  exact (select_traffic cfg c s).trans
    (Traffic.trans (as := [_]) (busWriteReport_traffic cfg _ _ _ _) (busWriteReport_traffic cfg a _ _ _))

theorem lbsetSlot_traffic (cfg : Cfg) (c : Channel) (b : Fin 2) (pair : LbPair) (s : State) :
    Traffic s (lbsetSlot cfg c b pair s) (lbsetSlotActs cfg c pair (slotOf s.table c b)) := by
  unfold lbsetSlot
  cases slotOf s.table c b with
  | none => exact diag_traffic _ s
  | some a =>
    have hd := devType_dac_iff cfg a
    by_cases ha : isDac cfg a = true
    · simp only [hd.2 ha]
      exact lbServe_traffic cfg c b a pair s ha
    · have hn : lbsetSlotActs cfg c pair (some a) = [] := by simp only [lbsetSlotActs, ha, Bool.false_eq_true, if_false]
      rw [hn]
      dsimp only
      split
      · exact absurd (hd.1 ‹_›) ha
      · exact diag_traffic _ s
      · exact diag_traffic _ s

theorem lbset_traffic (cfg : Cfg) (slab : Fin 2) (p : Vector LbPair 16) (s : State) :
    Traffic s (lbset cfg slab p s) (lbsetActs cfg s.table slab p) :=
  forFin_traffic 8 _ _ (fun _ u hu => forFin_traffic 2 _ _
    (fun b w hw => by simpa only [hw] using lbsetSlot_traffic cfg _ b _ w) u hu) s rfl

theorem lbSetupWrites_traffic (cfg : Cfg) (c : Channel) (b : Fin 2) (ws : List (BusAddr × List Byte)) (s : State) :
    Traffic s (lbSetupWrites cfg c b ws s) (ws.map fun w => .write w.1 w.2) := by
  induction ws generalizing s with
  | nil => exact Traffic.refl s
  | cons w ws ih => exact (busWriteReport_traffic cfg w.1 w.2 _ s).trans (ih _)

theorem lbcfgSlot_traffic (cfg : Cfg) (c : Channel) (b : Fin 2) (s : State) :
    Traffic s (lbcfgSlot cfg c b s) (lbcfgSlotActs cfg c (slotOf s.table c b)) := by
  unfold lbcfgSlot
  cases slotOf s.table c b with
  | none => exact diag_traffic _ s
  | some a =>
    have hd := devType_dac_iff cfg a
    by_cases ha : isDac cfg a = true
    · simp only [hd.2 ha, lbcfgSlotActs, ha, if_true]
      exact (select_traffic cfg c s).trans (lbSetupWrites_traffic cfg c b _ _)
    · have hn : lbcfgSlotActs cfg c (some a) = [] := by simp only [lbcfgSlotActs, ha, Bool.false_eq_true, if_false]
      rw [hn]
      dsimp only
      split
      · exact absurd (hd.1 ‹_›) ha
      · exact diag_traffic _ s
      · exact diag_traffic _ s

theorem lbcfg_traffic (cfg : Cfg) (slab : Fin 2) (s : State) :
    Traffic s (lbcfg cfg slab s) (lbcfgActs cfg s.table slab) :=
  forFin_traffic 8 _ _ (fun _ u hu => forFin_traffic 2 _ _
    (fun b w hw => by simpa only [hw] using lbcfgSlot_traffic cfg _ b w) u hu) s rfl

end Sys2Proof.Machine
end

