-- ==== Sys2Proof/Laws/Scan.lean ====
section
/-! SUPPORT. What SCAN, RESCAN and BOOT can do, once each. -/

namespace Sys2Proof.Machine

open Sys2Proof

/-- Events whose actions are all writes are bus events. -/
theorem busEvents_of_writes {evs : List Event} {as : List Act} (h : evs.map actOf = as)
    (hw : ∀ m, Act.pins m ∉ as) :
    ∃ es : List BusEvent, evs = es.map Event.bus ∧ es.map (fun e => Act.write e.addr e.bytes) = as := by
  induction evs generalizing as with
  | nil => exact ⟨[], rfl, h⟩
  | cons e evs ih =>
    subst h
    obtain ⟨es, h1, h2⟩ := ih rfl fun m hm => hw m (List.mem_cons_of_mem _ hm)
    cases e with
    | bus w => exact ⟨w :: es, by rw [h1]; rfl, by rw [List.map_cons, h2]; rfl⟩
    | pins m => exact absurd List.mem_cons_self (hw m)

theorem pins_not_mem_selectActs (cfg : Cfg) (c : Channel) (m : U16) : Act.pins m ∉ selectActs cfg c := by
  simp [selectActs]

/-- A select records bus events, and those are its three writes. -/
theorem select_events (cfg : Cfg) (c : Channel) (s : State) :
    ∃ sel : List BusEvent, (select cfg (chanByte c) s).trace = s.trace ++ sel.map Event.bus ∧
      sel.map (fun e => Act.write e.addr e.bytes) = selectActs cfg c := by
  obtain ⟨evs, h1, h2⟩ := (select_traffic cfg c s).2
  obtain ⟨sel, rfl, h3⟩ := busEvents_of_writes h2 (pins_not_mem_selectActs cfg c)
  exact ⟨sel, h1, h3⟩

/-- The slots found so far are the first two acknowledged addresses. -/
def Found.Holds (f : Found) (acked : List BusAddr) : Prop :=
  f.n = min 2 acked.length ∧ f.slots = firstTwo acked

theorem Found.empty_holds : Found.empty.Holds [] := ⟨rfl, by decide⟩

/-- One probe: its event, and the slots after it. -/
theorem probe_spec (cfg : Cfg) (c : Channel) (a : BusAddr) (r : Found × State) (acked : List BusAddr)
    (h : r.1.Holds acked) :
    ∃ k : Bool, (probe cfg c a r).2.trace = r.2.trace ++ [.bus ⟨a, cfg.probePayload.toList, k⟩] ∧
      (probe cfg c a r).1.Holds (acked ++ if k then [a] else []) ∧ BusOnly r.2 (probe cfg c a r).2 := by
  obtain ⟨⟨n, slots⟩, s⟩ := r
  obtain ⟨rfl, rfl⟩ := h
  have hb := (busWrite_traffic cfg a cfg.probePayload.toList s).1
  refine ⟨ackOf cfg s a cfg.probePayload.toList, ?_⟩
  by_cases hk : ackOf cfg s a cfg.probePayload.toList = true
  · simp only [probe, busWrite_ack, hk, if_true]
    match acked with
    | [] => exact ⟨by simp [hk], ⟨rfl, rfl⟩, hb⟩
    | [x] => exact ⟨by simp [hk], ⟨rfl, rfl⟩, hb⟩
    | x :: y :: l =>
      have hn : ¬ min 2 (x :: y :: l).length < 2 := by simp
      simp only [hn, dite_false]
      exact ⟨by simp [hk], ⟨by simp, rfl⟩, hb.trans (diag_traffic _ _).1⟩
  · simp only [Bool.not_eq_true] at hk
    simp only [probe, busWrite_ack, hk, Bool.false_eq_true, if_false, List.append_nil]
    exact ⟨by simp [hk], ⟨rfl, rfl⟩, hb⟩

/-- All probes of a channel. -/
theorem probes_spec (cfg : Cfg) (c : Channel) (l : List BusAddr) (r : Found × State) (acked : List BusAddr)
    (h : r.1.Holds acked) :
    ∃ pr : List BusEvent,
      (l.foldl (fun r a => probe cfg c a r) r).2.trace = r.2.trace ++ pr.map Event.bus ∧
      pr.map (fun e => (e.addr, e.bytes)) = l.map (fun a => (a, cfg.probePayload.toList)) ∧
      (l.foldl (fun r a => probe cfg c a r) r).1.Holds (acked ++ (pr.filter (·.ack)).map (·.addr)) ∧
      BusOnly r.2 (l.foldl (fun r a => probe cfg c a r) r).2 := by
  induction l generalizing r acked with
  | nil => exact ⟨[], by simp, rfl, by simpa using h, BusOnly.refl _⟩
  | cons a l ih =>
    obtain ⟨k, h1, h2, h3⟩ := probe_spec cfg c a r acked h
    obtain ⟨pr, i1, i2, i3, i4⟩ := ih (probe cfg c a r) _ h2
    refine ⟨⟨a, cfg.probePayload.toList, k⟩ :: pr, ?_, ?_, ?_, h3.trans i4⟩
    · rw [List.foldl_cons, i1, h1, List.append_assoc]; rfl
    · rw [List.map_cons, List.map_cons, i2]
    · rw [List.foldl_cons]
      cases k <;> simpa using i3

/-- One channel of a scan: what it records and the slots it finds. -/
theorem scanChannel_spec (cfg : Cfg) (c : Channel) (s : State) :
    ∃ b : ScanBlock,
      (scanChannel cfg c s).2.trace = s.trace ++ (b.sel ++ b.probes).map Event.bus ∧
      b.sel.map (fun e => Act.write e.addr e.bytes) = selectActs cfg c ∧
      b.probes.map (fun e => (e.addr, e.bytes)) = cfg.candidates.map (fun a => (a, cfg.probePayload.toList)) ∧
      (scanChannel cfg c s).1.slots = firstTwo b.acked ∧ BusOnly s (scanChannel cfg c s).2 := by
  obtain ⟨sel, h1, h2⟩ := select_events cfg c s
  obtain ⟨pr, i1, i2, i3, i4⟩ := probes_spec cfg c cfg.candidates
    (Found.empty, settle cfg.settleDelay (select cfg (chanByte c) s)) [] Found.empty_holds
  refine ⟨⟨sel, pr⟩, ?_, h2, i2, i3.2, (select_traffic cfg c s).1.trans i4⟩
  rw [scanChannel, i1]
  show (select cfg (chanByte c) s).trace ++ _ = _
  rw [h1, List.map_append, List.append_assoc]

/-- The loop over the last channels, from channel `lo` on. -/
theorem scanLoop_spec (cfg : Cfg) (n : Nat) (chan : Fin n → Channel) (hinj : Function.Injective chan)
    (r : Table × State) :
    ∃ bs : Fin n → ScanBlock,
      (forFin n (fun k => scanStep cfg (chan k)) r).2.trace =
        r.2.trace ++ (List.finRange n).flatMap (fun k => ((bs k).sel ++ (bs k).probes).map Event.bus) ∧
      (∀ k, (bs k).sel.map (fun e => Act.write e.addr e.bytes) = selectActs cfg (chan k) ∧
        (bs k).probes.map (fun e => (e.addr, e.bytes)) = cfg.candidates.map (fun a => (a, cfg.probePayload.toList)) ∧
        (forFin n (fun k => scanStep cfg (chan k)) r).1[chan k] = firstTwo (bs k).acked) ∧
      (∀ c, (∀ k, chan k ≠ c) → (forFin n (fun k => scanStep cfg (chan k)) r).1[c] = r.1[c]) ∧
      BusOnly r.2 (forFin n (fun k => scanStep cfg (chan k)) r).2 := by
  induction n generalizing r with
  | zero => exact ⟨fun k => k.elim0, by simp [forFin], fun k => k.elim0, fun _ _ => rfl, BusOnly.refl _⟩
  | succ n ih =>
    obtain ⟨b, h1, h2, h3, h4, h5⟩ := scanChannel_spec cfg (chan 0) r.2
    obtain ⟨bs, i1, i2, i3, i4⟩ := ih (fun k => chan k.succ) (fun x y e => Fin.succ_injective n (hinj e))
      (scanStep cfg (chan 0) r)
    refine ⟨Fin.cons b bs, ?_, ?_, ?_, h5.trans i4⟩
    · rw [forFin, i1]
      show (scanChannel cfg (chan 0) r.2).2.trace ++ _ = _
      rw [h1]
      simp [List.finRange_succ, List.flatMap_map]
    · intro k
      refine Fin.cases ⟨h2, h3, ?_⟩ (fun k => i2 k) k
      have hk : ∀ k : Fin n, chan k.succ ≠ chan 0 := fun k e => Fin.succ_ne_zero k (hinj e)
      rw [forFin, i3 (chan 0) hk]
      show (r.1.set (chan 0) (scanChannel cfg (chan 0) r.2).1.slots)[chan 0] = _
      simpa using h4
    · intro c hc
      rw [forFin, i3 c fun k => hc k.succ]
      show (r.1.set (chan 0) (scanChannel cfg (chan 0) r.2).1.slots)[c] = _
      have : (chan 0).val ≠ c.val := fun e => hc 0 (Fin.ext e)
      simp [this]

/-- `SCAN()`: it records one scan, the table is what the probes' acknowledge bits say, and nothing else of the block
changes. -/
theorem scan_spec (cfg : Cfg) (s : State) :
    ScanOutcome cfg s (scan cfg s) [] ∧ BusOnly { s with table := (scan cfg s).table } (scan cfg s) := by
  obtain ⟨bs, h1, h2, _, h4⟩ := scanLoop_spec cfg 16 id Function.injective_id (emptyTable, s)
  rw [show (fun k => scanStep cfg (id k)) = scanStep cfg from rfl] at h1 h2 h4
  unfold scan
  generalize forFin 16 (scanStep cfg) (emptyTable, s) = r at h1 h2 h4
  exact ⟨⟨bs, by rw [List.append_nil]; exact h1, h2⟩,
    ⟨h4.desync, rfl, h4.pin, h4.rx, h4.tx, h4.booted, h4.requests, h4.bench, h4.replies⟩⟩

end Sys2Proof.Machine
end

