-- ==== Sys2Proof/Laws/Link.lean ====
section
/-! SUPPORT. The frames of an exchange: what arrives, what ECHO builds, what the encoder writes. -/

namespace Sys2Proof.Machine

open Sys2Proof

@[simp] theorem frameOfBytes_toList (f : Frame) : frameOfBytes f.toList = some f := by
  simp [frameOfBytes, Vector.toList]

theorem frameOfBytes_none {bytes : List Byte} (h : bytes.length ≠ 36) : frameOfBytes bytes = none := by
  simp [frameOfBytes, h]

theorem frameOfBytes_some {bytes : List Byte} (h : bytes.length = 36) : ∃ f : Frame, frameOfBytes bytes = some f :=
  ⟨⟨bytes.toArray, by simp [h]⟩, by simp [frameOfBytes, h]⟩

theorem echoFrame_getElem (rx tx : Frame) (k : Nat) (h : k < 36) :
    (echoFrame rx tx)[k] = if k ≤ 3 then rx[k] else if k = 4 then tx[k] else if k ≤ 31 then 0 else rx[k] := by
  simp [echoFrame]

theorem mkFrame_getElem (b0 b1 : Byte) (pins : U16) (payload : Nat → Byte) (k : Nat) (h : k < 36) :
    (mkFrame b0 b1 pins payload)[k] =
      if k = 0 then b0 else if k = 1 then b1 else if k = 2 then hiByte pins else if k = 3 then loByte pins
      else payload (k - 4) := by
  simp [mkFrame]

theorem be16_toNat (hi lo : Byte) : (be16 hi lo).toNat = hi.toNat * 256 + lo.toNat := by
  have := lo.isLt
  simp only [be16, BitVec.toNat_append]
  rw [← Nat.shiftLeft_add_eq_or_of_lt (by omega), Nat.shiftLeft_eq]

theorem hiByte_toNat (v : U16) : (hiByte v).toNat = v.toNat / 256 := by
  have := v.isLt
  simp [hiByte, Nat.shiftRight_eq_div_pow]
  omega

theorem loByte_toNat (v : U16) : (loByte v).toNat = v.toNat % 256 := by
  simp [loByte]

theorem be16_hi_lo (v : U16) : be16 (hiByte v) (loByte v) = v := by
  apply BitVec.eq_of_toNat_eq
  rw [be16_toNat, hiByte_toNat, loByte_toNat]
  omega

theorem hiByte_be16 (hi lo : Byte) : hiByte (be16 hi lo) = hi := by
  apply BitVec.eq_of_toNat_eq
  have := lo.isLt
  rw [hiByte_toNat, be16_toNat]
  omega

theorem loByte_be16 (hi lo : Byte) : loByte (be16 hi lo) = lo := by
  apply BitVec.eq_of_toNat_eq
  have := lo.isLt
  rw [loByte_toNat, be16_toNat]
  omega

theorem hiByte_and (v w : U16) : hiByte (v &&& w) = hiByte v &&& hiByte w := by
  unfold hiByte
  ext i h
  simp

end Sys2Proof.Machine
end

