-- ==== Sys2Proof/Laws/PerInstr.lean ====
section
/-! SUPPORT. Facts about each command as syntax, one lemma per constructor. Family `RowOf`: the frame the encoder writes
for a well-formed command is matched first by the command's own row of the opcode table (30_encoding.md R92). -/

namespace Sys2Proof.Laws

open Sys2Proof Sys2Proof.Machine

/-- The first row that matches the encoded frame's first two bytes is the command's own. -/
def RowOf.Statement (i : Instr) : Prop :=
  i.wellFormed = true → ∀ f, encode i = some f → firstRow (opWord f) = some i.mnemonic

theorem opWord_mkFrame (b0 b1 : Byte) (pins : U16) (payload : Nat → Byte) :
    opWord (mkFrame b0 b1 pins payload) = be16 b0 b1 := by
  simp [opWord, op0, op1, mkFrame_getElem]

theorem firstRow_nop2 : ∀ b : Byte, (!namedSecondary.contains b) = true → firstRow (be16 0xFF b) = some "NOP2" := by
  decide +kernel

theorem firstRow_desync (b0 b1 : Byte) (h : (b0 != 0xFF) = true) : firstRow (be16 b0 b1) = some "DESYNC_ENTER" := by
  have hn : ∀ m p : U16, m &&& 0xFF00 = 0xFF00 → p &&& 0xFF00 = 0xFF00 → (be16 b0 b1 &&& m == p) = false := by
    intro m p hm hp
    have h0 : b0 ≠ 0xFF := by simpa using h
    apply beq_false_of_ne
    intro e
    apply h0
    have e1 : be16 b0 b1 &&& 0xFF00 = 0xFF00 := by
      rw [← hm, ← BitVec.and_assoc, e, hm, hp]
    have e2 := congrArg hiByte e1
    rw [hiByte_and, hiByte_be16, show hiByte (0xFF00 : U16) = BitVec.allOnes 8 from by decide,
      BitVec.and_allOnes] at e2
    exact e2
  simp [firstRow, opcodeRows, hn]

theorem RowOf.allset (pins : U16) (v : Vector U16 16) : RowOf.Statement (.allset pins v) := by
  intro _ f h
  rw [← Option.some.inj h, opWord_mkFrame]
  exact (by decide : firstRow (be16 0xFF 0xFF) = some "ALLSET")

theorem RowOf.rescan : RowOf.Statement .rescan := by
  intro _ f h
  rw [← Option.some.inj h, opWord_mkFrame]
  exact (by decide : firstRow (be16 0xFF 0xFE) = some "RESCAN")

theorem RowOf.slab0set (pins : U16) (v : Vector U16 8) : RowOf.Statement (.slab0set pins v) := by
  intro _ f h
  rw [← Option.some.inj h, opWord_mkFrame]
  exact (by decide : firstRow (be16 0xFF 0xFC) = some "SLAB0SET")

theorem RowOf.slab1set (v : Vector U16 8) : RowOf.Statement (.slab1set v) := by
  intro _ f h
  rw [← Option.some.inj h, opWord_mkFrame]
  exact (by decide : firstRow (be16 0xFF 0xFD) = some "SLAB1SET")

theorem RowOf.lb1set (p : Vector LbPair 16) : RowOf.Statement (.lb1set p) := by
  intro _ f h
  rw [← Option.some.inj h, opWord_mkFrame]
  exact (by decide : firstRow (be16 0xFF 0xFB) = some "LB1SET")

theorem RowOf.lb0set (p : Vector LbPair 16) : RowOf.Statement (.lb0set p) := by
  intro _ f h
  rw [← Option.some.inj h, opWord_mkFrame]
  exact (by decide : firstRow (be16 0xFF 0xFA) = some "LB0SET")

theorem RowOf.nop2 (b : Byte) : RowOf.Statement (.nop2 b) := by
  intro hb f h
  rw [← Option.some.inj h, opWord_mkFrame]
  exact firstRow_nop2 b hb

theorem RowOf.desyncEnter (b : Byte) : RowOf.Statement (.desyncEnter b) := by
  intro hb f h
  rw [← Option.some.inj h, opWord_mkFrame]
  exact firstRow_desync b 0 hb

theorem RowOf.bypass : RowOf.Statement .bypass := by
  intro _ f h
  exact absurd h (by simp [encode])

end Sys2Proof.Laws
end

