-- ==== Sys2Proof/Laws/Exec.lean ====
section
/-! SUPPORT. What each arm of `exec` answers, so that no proof has to compute one, and the step's inversion by case. -/

namespace Sys2Proof.Machine

open Sys2Proof

theorem exec_allset (pins : U16) (v : Vector U16 16) (s : State) :
    exec (.allset pins v) s = .next (allset Config.cfg pins v s) := rfl

theorem exec_rescan (s : State) : exec .rescan s = .next (rescan Config.cfg s) := rfl

theorem exec_slab0set (pins : U16) (v : Vector U16 8) (s : State) :
    exec (.slab0set pins v) s = .next (slab0set Config.cfg pins v s) := rfl

theorem exec_slab1set (v : Vector U16 8) (s : State) :
    exec (.slab1set v) s = .next (slab1set Config.cfg v s) := rfl

theorem exec_lb1set (p : Vector LbPair 16) (s : State) : exec (.lb1set p) s = .next (lbset Config.cfg 1 p s) := rfl

theorem exec_lb0set (p : Vector LbPair 16) (s : State) : exec (.lb0set p) s = .next (lbset Config.cfg 0 p s) := rfl

theorem exec_nop2 (b : Byte) (s : State) : exec (.nop2 b) s = .next (diag (.unknownSecondary b) s) := rfl

theorem exec_desyncEnter (b : Byte) (s : State) :
    exec (.desyncEnter b) s = .next (enterRecovery Config.cfg b s) := rfl

theorem exec_bypass (s : State) :
    exec .bypass s = if recovering s.desync then .next (leaveRecoveryStep s)
      else .refused (.desyncOutsideRecovery s.desync) := rfl

theorem next_inj {s t : State} (h : (.next s : Host.Outcome State Fault Refusal) = .next t) : s = t :=
  Host.Outcome.next.inj h

/-- A next state of the bypass: DESYNC was in 1..4 and is counted down. -/
theorem exec_bypass_next {s t : State} (h : exec .bypass s = .next t) :
    recovering s.desync = true ∧ t = leaveRecoveryStep s := by
  rw [exec_bypass] at h
  split at h
  · exact ⟨‹_›, (next_inj h).symm⟩
  · exact absurd h (by simp)

/-- A next state of a step is one of four: the boot, nothing at all, or a dispatched or bypassed exchange of the oldest
request. -/
theorem step_next {s t : State} (h : step s = .next t) :
    (s.booted = false ∧ t = boot Config.cfg s) ∨
    (s.booted = true ∧ s.requests = [] ∧ t = s) ∨
    (s.booted = true ∧ ∃ req u, arrival s = .frame req ∧
      exec (decodeExchange s.desync req) (latch req s) = .next u ∧ t = echo u) := by
  unfold step at h
  split at h
  · rename_i hb
    refine .inr ?_
    split at h
    · rename_i ha
      refine .inl ⟨hb, ?_, (next_inj h).symm⟩
      unfold arrival at ha
      split at ha
      · assumption
      · split at ha <;> exact absurd ha (by simp)
    · rename_i req ha
      refine .inr ⟨hb, req, ?_⟩
      unfold exchange at h
      generalize exec (decodeExchange s.desync req) (latch req s) = o at h
      cases o with
      | next u => exact ⟨u, ha, rfl, (next_inj h).symm⟩
      | fault r => exact nomatch r
      | refused r => exact absurd h (by simp [finish])
    · exact absurd h (by simp)
  · exact .inl ⟨by simpa using ‹¬ s.booted = true›, (next_inj h).symm⟩

/-- An exchange while recovering: the frame is echoed and DESYNC counted down, whatever the frame holds. -/
theorem step_recovering {s : State} {req : Frame} {rest : List (List Byte)} (hb : s.booted = true)
    (hr : s.requests = req.toList :: rest) (h : recovering s.desync = true) :
    step s = .next (echo (leaveRecoveryStep (latch req s))) := by
  have hd : s.desync ≠ 0 := by
    intro h0
    rw [h0] at h
    exact absurd h (by decide)
  have ha : arrival s = .frame req := by simp [arrival, hr]
  have hx : decodeExchange s.desync req = .bypass := by
    unfold decodeExchange
    exact if_pos hd
  have he : exec .bypass (latch req s) = .next (leaveRecoveryStep (latch req s)) := by
    rw [exec_bypass]
    exact if_pos h
  simp only [step, hb, if_true, ha, exchange, hx, he, finish]

end Sys2Proof.Machine
end

