-- ==== Sys2Proof/Laws/Env.lean ====
section
/-! SUPPORT. What each shared operation leaves in the environment: the control bytes and the device store follow the recorded
writes. -/

namespace Sys2Proof.Machine

open Sys2Proof

/-- From `s` to `u` the environment followed the recorded writes, in the same environment. -/
def Follows (cfg : Cfg) (s u : State) : Prop := u.bench = s.bench ∧ EnvFollows cfg s u

theorem Follows.refl (cfg : Cfg) (s : State) : Follows cfg s s := ⟨rfl, [], by simp⟩

/-- What does not touch the environment or the record keeps it. -/
theorem Follows.congr {cfg : Cfg} {s u w : State} (h : Follows cfg s u) (hb : w.bench = u.bench)
    (ht : w.trace = u.trace) (hm : w.muxctl = u.muxctl) (hd : w.dev = u.dev) : Follows cfg s w := by
  obtain ⟨b, evs, h1, h2⟩ := h
  exact ⟨hb.trans b, evs, ht.trans h1, by rw [hm, hd, h2]⟩

theorem Follows.diag {cfg : Cfg} {s u : State} (d : Diag) (h : Follows cfg s u) : Follows cfg s (diag d u) :=
  h.congr rfl rfl rfl rfl

theorem Follows.pinApply {cfg : Cfg} {s u : State} (mask : U16) (h : Follows cfg s u) :
    Follows cfg s (pinApply mask u) := by
  obtain ⟨b, evs, h1, h2⟩ := h
  exact ⟨b, evs ++ [.pins mask], by simp [h1], by simp [h2, envStep]⟩

theorem Follows.busWrite {cfg : Cfg} {s u : State} (a : BusAddr) (bytes : List Byte) (h : Follows cfg s u) :
    Follows cfg s (busWrite cfg a bytes u).2 := by
  obtain ⟨b, evs, h1, h2⟩ := h
  refine ⟨b, evs ++ [.bus ⟨a, bytes, ackOf cfg u a bytes⟩], by simp [h1], ?_⟩
  rw [List.foldl_append, ← h2, busWrite_muxctl, busWrite_dev, b]
  simp only [List.foldl_cons, List.foldl_nil, envStep]
  split <;> rfl

theorem Follows.busWriteReport {cfg : Cfg} {s u : State} (a : BusAddr) (bytes : List Byte) (d : Diag)
    (h : Follows cfg s u) : Follows cfg s (busWriteReport cfg a bytes d u) := by
  unfold Machine.busWriteReport
  dsimp only
  split
  · exact h.busWrite a bytes
  · exact (h.busWrite a bytes).diag d

theorem Follows.select {cfg : Cfg} {s u : State} (chan : Byte) (h : Follows cfg s u) :
    Follows cfg s (select cfg chan u) := by
  unfold Machine.select
  split
  · exact h
  · exact ((h.busWriteReport _ _ _).busWriteReport _ _ _).busWriteReport _ _ _

theorem Follows.writeV {cfg : Cfg} {s u : State} (a : Slot) (raw : U16) (h : Follows cfg s u) :
    Follows cfg s (writeV cfg a raw u) := by
  unfold Machine.writeV
  dsimp only
  split
  · exact h.diag _
  · split
    · exact (h.busWrite _ _).diag _
    · exact (h.busWrite _ _).diag _
    · exact h.diag _

theorem Follows.vset {cfg : Cfg} {s u : State} (lo n : Nat) (hn : lo + n ≤ 16) (src : Fin n → U16)
    (h : Follows cfg s u) : Follows cfg s (vset cfg lo n hn src u) := by
  refine forFin_keeps (P := Follows cfg s) n _ (fun k w hw => ?_) u h
  refine forFin_keeps (P := Follows cfg s) 2 _ (fun b w hw => ?_) _ ?_
  · unfold vsetSlot
    split
    · exact hw
    · exact (hw.select _).writeV _ _
  · split
    · exact hw.diag _
    · exact hw

theorem Follows.lbset {cfg : Cfg} {s u : State} (slab : Fin 2) (p : Vector LbPair 16) (h : Follows cfg s u) :
    Follows cfg s (lbset cfg slab p u) := by
  refine forFin_keeps (P := Follows cfg s) 8 _ (fun k w hw => ?_) u h
  refine forFin_keeps (P := Follows cfg s) 2 _ (fun b w hw => ?_) w hw
  unfold lbsetSlot
  split
  · exact hw.diag _
  · split
    · exact ((hw.select _).busWriteReport _ _ _).busWriteReport _ _ _
    · exact hw.diag _
    · exact hw.diag _

theorem Follows.lbSetupWrites {cfg : Cfg} {s u : State} (c : Channel) (b : Fin 2) (ws : List (BusAddr × List Byte))
    (h : Follows cfg s u) : Follows cfg s (lbSetupWrites cfg c b ws u) := by
  induction ws generalizing u with
  | nil => exact h
  | cons w ws ih => exact ih (h.busWriteReport w.1 w.2 _)

theorem Follows.lbcfg {cfg : Cfg} {s u : State} (slab : Fin 2) (h : Follows cfg s u) :
    Follows cfg s (lbcfg cfg slab u) := by
  refine forFin_keeps (P := Follows cfg s) 8 _ (fun k w hw => ?_) u h
  refine forFin_keeps (P := Follows cfg s) 2 _ (fun b w hw => ?_) w hw
  unfold lbcfgSlot
  split
  · exact hw.diag _
  · split
    · exact (hw.select _).lbSetupWrites _ _ _
    · exact hw.diag _
    · exact hw.diag _

theorem Follows.probe {cfg : Cfg} {s : State} (c : Channel) (a : BusAddr) (r : Found × State)
    (h : Follows cfg s r.2) : Follows cfg s (probe cfg c a r).2 := by
  unfold Machine.probe
  dsimp only
  split
  · split
    · exact h.busWrite _ _
    · exact (h.busWrite _ _).diag _
  · exact h.busWrite _ _

theorem Follows.scanChannel {cfg : Cfg} {s u : State} (c : Channel) (h : Follows cfg s u) :
    Follows cfg s (scanChannel cfg c u).2 := by
  suffices ∀ (l : List BusAddr) (r : Found × State), Follows cfg s r.2 →
      Follows cfg s (l.foldl (fun r a => Machine.probe cfg c a r) r).2 from this _ _ (h.select _)
  intro l
  induction l with
  | nil => exact fun r hr => hr
  | cons a l ih => exact fun r hr => ih _ (hr.probe c a)

theorem Follows.scan {cfg : Cfg} {s u : State} (h : Follows cfg s u) : Follows cfg s (scan cfg u) := by
  have hr := forFin_keeps (P := fun r : Table × State => Follows cfg s r.2) 16 (scanStep cfg)
    (fun c _ hr => hr.scanChannel c) (emptyTable, u) h
  unfold Machine.scan
  generalize forFin 16 (scanStep cfg) (emptyTable, u) = r at hr
  exact hr.congr rfl rfl rfl rfl

theorem Follows.boot {cfg : Cfg} {s u : State} (h : Follows cfg s u) : Follows cfg s (boot cfg u) := by
  have hr := h.scan
  unfold Machine.boot
  generalize Machine.scan cfg u = w at hr
  exact hr.congr rfl rfl rfl rfl

/-- A table that meets R23 holds device addresses alone. -/
theorem TableWf.devices {t : Table} (h : TableWf Config.cfg t) : Recognized Config.cfg t := by
  intro c b a ha
  have := Config.cfg_valid.2.2 a (h.recognized c b a ha)
  simp only [devType]
  split
  · simp
  · split
    · simp
    · tauto

/-! The acknowledge bits of the test environment. -/

theorem ackOf_bench {cfg : Cfg} {s : State} {topo : Topology} (hb : s.bench = some topo) (ha : s.answers = [])
    (a : BusAddr) (bytes : List Byte) : ackOf cfg s a bytes = benchAck cfg topo s a := by
  simp [ackOf, ha, hb]

theorem benchAck_mux {cfg : Cfg} (topo : Topology) (s : State) {a : BusAddr} (h : isMuxAddr cfg a = true) :
    benchAck cfg topo s a = true := by
  simp [benchAck, h]

@[simp] theorem inBench_bench (topo : Topology) (s : State) : (s.inBench topo).bench = some topo := rfl
@[simp] theorem inBench_muxctl (topo : Topology) (s : State) :
    (s.inBench topo).muxctl = Vector.replicate 2 0x00 := rfl
@[simp] theorem inBench_dev (topo : Topology) (s : State) : (s.inBench topo).dev = [] := rfl
@[simp] theorem inBench_answers (topo : Topology) (s : State) : (s.inBench topo).answers = s.answers := rfl
@[simp] theorem inBench_trace (topo : Topology) (s : State) : (s.inBench topo).trace = s.trace := rfl

end Sys2Proof.Machine
end

