-- ==== Sys2Proof/Tests/Slice0.lean ====
section
/-! SUPPORT. Tests: the checks of WellFormed, the decoding of words written out from the spec's encodings, the test vectors of
95_test_vectors.md (configuration `cfgT`), and for every statement with hypotheses a case that meets them. -/

namespace Sys2Proof.Tests

open Sys2Proof Sys2Proof.Machine

/-! One theorem at a time, so that the kernel evaluations below do not stand side by side in memory. -/
set_option Elab.async false

/-! WellFormed refuses an ill-formed term of each kind. -/

theorem test_nop2_named_secondary_refused :
    (namedSecondary.all fun b => !(Instr.nop2 b).wellFormed) = true := by decide

theorem test_desync_with_good_primary_refused : (Instr.desyncEnter 0xFF).wellFormed = false := by decide

theorem test_wellFormed_boundary :
    (Instr.nop2 0xF9).wellFormed = true ∧ (Instr.nop2 0x00).wellFormed = true ∧
      (Instr.desyncEnter 0xFE).wellFormed = true ∧ Instr.bypass.wellFormed = true := by decide

/-! Decoding, frames written out byte by byte (30_encoding.md R86, R91; 95_test_vectors.md sections 2.6 and 3). -/

/-- P1 t=1. -/
def frameP1 : List Byte :=
  [0xFF, 0xFF, 0x80, 0x01, 0x01, 0x23, 0x08, 0x00, 0x0F, 0xA0, 0x0F, 0xFF, 0x01, 0x11, 0x02, 0x22, 0x03, 0x33,
   0x04, 0x44, 0x07, 0xFF, 0x05, 0x55, 0x06, 0x66, 0x07, 0x77, 0x08, 0x88, 0x09, 0x99, 0x0A, 0xAA, 0x10, 0x00]

/-- The values of P1 t=1. -/
def valuesP1 : Vector U16 16 :=
  #v[0x0123, 0x0800, 0x0FA0, 0x0FFF, 0x0111, 0x0222, 0x0333, 0x0444, 0x07FF, 0x0555, 0x0666, 0x0777, 0x0888,
     0x0999, 0x0AAA, 0x1000]

/-- P3 t=3. -/
def frameP3 : List Byte :=
  [0xFF, 0xFB, 0x00, 0x00, 0x80, 0x05, 0x11, 0x22, 0xFA, 0x01, 0xFB, 0x02] ++ List.replicate 20 0x00 ++
    [0xFF, 0x3C, 0x7F, 0x7F]

/-- The pairs of P3 t=3. -/
def pairsP3 : Vector LbPair 16 :=
  #v[⟨0x80, 0x05⟩, ⟨0x11, 0x22⟩, ⟨0xFA, 0x01⟩, ⟨0xFB, 0x02⟩, ⟨0, 0⟩, ⟨0, 0⟩, ⟨0, 0⟩, ⟨0, 0⟩, ⟨0, 0⟩, ⟨0, 0⟩,
     ⟨0, 0⟩, ⟨0, 0⟩, ⟨0, 0⟩, ⟨0, 0⟩, ⟨0xFF, 0x3C⟩, ⟨0x7F, 0x7F⟩]

theorem test_decode_allset : decode frameP1 = .ok (.allset 0x8001 valuesP1) := by rfl

theorem test_decode_rescan : decode ([0xFF, 0xFE] ++ List.replicate 34 0xAA) = .ok .rescan := by rfl

/-- P2 t=1. -/
theorem test_decode_slab0set :
    decode ([0xFF, 0xFC, 0x00, 0xFF, 0x01, 0x00, 0x02, 0x00, 0x00, 0x40, 0x0F, 0xFF] ++ List.replicate 20 0x00 ++
      [0x01, 0x02, 0x03, 0x04]) = .ok (.slab0set 0x00FF #v[0x0100, 0x0200, 0x0040, 0x0FFF, 0, 0, 0, 0]) := by rfl

/-- P2 t=7: bytes 2..3 are ignored. -/
theorem test_decode_slab1set :
    decode ([0xFF, 0xFD, 0xFF, 0xFF, 0x04, 0x00] ++ List.replicate 12 0x00 ++ [0x00, 0x20] ++
      List.replicate 16 0x00) = .ok (.slab1set #v[0x0400, 0, 0, 0, 0, 0, 0, 0x0020]) := by rfl

theorem test_decode_lb1set : decode frameP3 = .ok (.lb1set pairsP3) := by rfl

theorem test_decode_lb0set :
    decode ([0xFF, 0xFA] ++ frameP3.drop 2) = .ok (.lb0set pairsP3) := by rfl

theorem test_decode_nop2 :
    decode ([0xFF, 0xF9] ++ List.replicate 34 0xFF) = .ok (.nop2 0xF9) ∧
      decode ([0xFF] ++ List.replicate 35 0x00) = .ok (.nop2 0x00) := ⟨by rfl, by rfl⟩

theorem test_decode_desyncEnter :
    decode ([0x7F, 0xFE] ++ List.replicate 34 0xAA) = .ok (.desyncEnter 0x7F) ∧
      decode ([0xFE] ++ List.replicate 35 0xFF) = .ok (.desyncEnter 0xFE) := ⟨by rfl, by rfl⟩

theorem test_decode_bypass (f : Frame) : decodeExchange 1 f = .bypass ∧ decodeExchange 4 f = .bypass := ⟨rfl, rfl⟩

theorem test_decode_other_lengths :
    decode (List.replicate 35 0xFF) = .error (.frameLength 35) ∧
      decode (List.replicate 37 0xFF) = .error (.frameLength 37) := ⟨by rfl, by rfl⟩

theorem test_tableWord :
    decodeTableWord 16 0xFFFE = some .rescan ∧ decodeTableWord 16 0xFF42 = some (.nop2 0x42) ∧
      decodeTableWord 16 0x7FFE = some (.desyncEnter 0x7F) ∧ decodeTableWord 32 0x8001FFFC =
        some (.slab0set 0x8001 #v[0, 0, 0, 0, 0, 0, 0, 0]) := by decide

theorem test_encode_p1 : (encode (.allset 0x8001 valuesP1)).map (·.toList) = some frameP1 := by decide

/-! Values (95_test_vectors.md sections 2.3, 2.5). -/

theorem test_clamp12_encodings :
    ([(0x0000, 0x000, 0x80), (0x001F, 0x01F, 0x80), (0x0020, 0x020, 0x7F), (0x0123, 0x123, 0x77), (0x0300, 0x300, 0x68),
      (0x07FF, 0x7FF, 0x41), (0x0800, 0x800, 0x40), (0x0F9F, 0xF9F, 0x04), (0x0FA0, 0xFA0, 0x03), (0x0FA1, 0xFA0, 0x03),
      (0x1000, 0x000, 0x80), (0x7FFF, 0xFA0, 0x03), (0x8000, 0x000, 0x80), (0xF123, 0x123, 0x77),
      (0xFFFF, 0xFA0, 0x03)] : List (U16 × U12 × Byte)).all
      (fun x => clamp12 x.1 == x.2.1 && encPot (clamp12 x.1) == x.2.2) = true := by decide +kernel

theorem test_encDac : encDac 0xFA0 = [0x0F, 0xA0] ∧ encDac 0x123 = [0x01, 0x23] ∧ encDac 0x7FF = [0x07, 0xFF] := by
  decide

theorem test_lbScale :
    ([(0x00, 0x000), (0x01, 0x010), (0x7F, 0x7F0), (0x80, 0x800), (0xF9, 0xF90), (0xFA, 0xFA0), (0xFB, 0xFA0),
      (0xFF, 0xFA0)] : List (Byte × U12)).all (fun x => lbScale x.1 == x.2) = true := by decide +kernel

/-! Commands on the test environment T-TOPO (95_test_vectors.md section 0). -/

/-- T-TOPO. -/
def tTopo : Topology :=
  #v[[0x20], [0x20, 0x21], [0x30], [0x20, 0x21, 0x30], [], [], [], [], [0x21], [], [], [], [], [], [], [0x20, 0x30]]

/-- The table entries after a scan of T-TOPO. -/
def tTable : Table :=
  (((((emptyTable.set 0 #v[some 0x20, none]).set 1 #v[some 0x20, some 0x21]).set 2 #v[some 0x30, none]).set 3
    #v[some 0x20, some 0x21]).set 8 #v[some 0x21, none]).set 15 #v[some 0x20, some 0x30]

/-- A small state: a table, an environment, everything else at zero. -/
def small (table : Table) (bench : Option Topology) (answers : List Bool) : State :=
  { State.reset with
    table, bench, answers, booted := true, pin := 0, tx := Vector.replicate 36 0, muxctl := Vector.replicate 2 0 }

/-- The last actions of a state. -/
def acts (s : State) : List Act := s.trace.map actOf

/-- `SEL(c)` of the test vectors. -/
def sel (owner : BusAddr) (bit : Byte) : List Act := [.write 0x10 [0], .write 0x11 [0], .write owner [bit]]

/-- Runs of actions, one after the other. -/
def concat (runs : List (List Act)) : List Act := runs.flatten

theorem test_select_boundaries :
    acts (select cfgT 0 (small emptyTable (some tTopo) [])) = sel 0x10 0x01 ∧
      acts (select cfgT 7 (small emptyTable (some tTopo) [])) = sel 0x10 0x80 ∧
      acts (select cfgT 8 (small emptyTable (some tTopo) [])) = sel 0x11 0x01 ∧
      acts (select cfgT 10 (small emptyTable (some tTopo) [])) = sel 0x11 0x04 ∧
      acts (select cfgT 15 (small emptyTable (some tTopo) [])) = sel 0x11 0x80 ∧
      acts (select cfgT 16 (small emptyTable (some tTopo) [])) = [] ∧ acts (select cfgT 255 (small emptyTable (some tTopo) [])) = [] := by
  decide +kernel

/-- Section 2.1: every write is made although none is acknowledged. -/
theorem test_select_all_fail :
    (select cfgT 3 (small emptyTable none [false, false, false])).trace =
      [.bus ⟨0x10, [0], false⟩, .bus ⟨0x11, [0], false⟩, .bus ⟨0x10, [0x08], false⟩] := by decide

theorem test_writeV_unknown :
    acts (writeV cfgT none 0x123 (small emptyTable none [])) = [] ∧
      acts (writeV cfgT (some 0x55) 0x123 (small emptyTable none [])) = [] ∧
      acts (writeV cfgT (some 0x10) 0x123 (small emptyTable none [])) = [] := by decide

/-- Section 2.2: the boot scan of T-TOPO. -/
theorem test_boot_scan_table : (boot cfgT (small emptyTable (some tTopo) [])).table = tTable := by decide +kernel

theorem test_boot_scan_events :
    (boot cfgT (small emptyTable (some tTopo) [])).trace.length = 96 ∧
      (boot cfgT (small emptyTable (some tTopo) [])).diags = [.slotOverflow 3 0x30] ∧
      (boot cfgT (small emptyTable (some tTopo) [])).muxctl = #v[0x00, 0x80] ∧
      (boot cfgT (small emptyTable (some tTopo) [])).dev = [] := by decide +kernel

/-- P1 t=1. -/
theorem test_allset_p1 :
    acts (allset cfgT 0x8001 valuesP1 (small tTable (some tTopo) [])) =
      concat [
        [.pins 0x8001], sel 0x10 0x01, [.write 0x20 [0x01, 0x23]], sel 0x10 0x02, [.write 0x20 [0x08, 0x00]],
        sel 0x10 0x02, [.write 0x21 [0x08, 0x00]], sel 0x10 0x04, [.write 0x30 [0x03]], sel 0x10 0x08,
        [.write 0x20 [0x0F, 0xA0]], sel 0x10 0x08, [.write 0x21 [0x0F, 0xA0]], sel 0x11 0x01,
        [.write 0x21 [0x07, 0xFF]], sel 0x11 0x80, [.write 0x20 [0x00, 0x00]], sel 0x11 0x80,
        [.write 0x30 [0x80]]] := by decide +kernel

theorem test_allset_p1_devices :
    (allset cfgT 0x8001 valuesP1 (small tTable (some tTopo) [])).pin = 0x8001 ∧
      devRead (devKey 2 0x30) (allset cfgT 0x8001 valuesP1 (small tTable (some tTopo) [])).dev = some [0x03] ∧
      devRead (devKey 3 0x30) (allset cfgT 0x8001 valuesP1 (small tTable (some tTopo) [])).dev = none := by
  decide +kernel

/-- P2 t=1. -/
theorem test_slab0set_p2 :
    acts (slab0set cfgT 0x00FF #v[0x0100, 0x0200, 0x0040, 0x0FFF, 0, 0, 0, 0] (small tTable (some tTopo) [])) =
      concat [
        [.pins 0x00FF], sel 0x10 0x01, [.write 0x20 [0x01, 0x00]], sel 0x10 0x02, [.write 0x20 [0x02, 0x00]],
        sel 0x10 0x02, [.write 0x21 [0x02, 0x00]], sel 0x10 0x04, [.write 0x30 [0x7E]], sel 0x10 0x08,
        [.write 0x20 [0x0F, 0xA0]], sel 0x10 0x08, [.write 0x21 [0x0F, 0xA0]]] := by decide +kernel

/-- P2 t=7. -/
theorem test_slab1set_p2 :
    acts (slab1set cfgT #v[0x0400, 0, 0, 0, 0, 0, 0, 0x0020] (small tTable (some tTopo) [])) =
      concat [
        sel 0x11 0x01, [.write 0x21 [0x04, 0x00]], sel 0x11 0x80, [.write 0x20 [0x00, 0x20]], sel 0x11 0x80,
        [.write 0x30 [0x7F]]] := by decide +kernel

/-- Section 2.5, `LBSET(1)` with the table of T-TOPO and the pairs of P3. -/
theorem test_lb1set_p3 :
    acts (lbset cfgT 1 pairsP3 (small tTable (some tTopo) [])) =
      concat [
        sel 0x11 0x01, [.write 0x21 [0x05, 0x80], .write 0x21 [0x08, 0x00]], sel 0x11 0x80,
        [.write 0x20 [0x3C, 0xFA], .write 0x20 [0x0F, 0xA0]]] := by decide +kernel

/-- 45_commands.md R187, example. -/
theorem test_lb0set_example :
    acts (lbset cfgT 0 ((Vector.replicate 16 ⟨0, 0⟩).set 0 ⟨0xFF, 0x01⟩)
      (small (emptyTable.set 0 #v[some 0x20, none]) (some tTopo) [])) =
      sel 0x10 0x01 ++ [.write 0x20 [0x01, 0xFA], .write 0x20 [0x0F, 0xA0]] := by decide +kernel

/-- RESCAN on T-TOPO: 96 scan writes and five for each of its seven DAC slots. -/
theorem test_rescan_writes : (rescan cfgT (small emptyTable (some tTopo) [])).trace.length = 96 + 5 * 7 := by
  decide +kernel

/-- P4 t=2: nothing acknowledges, so the table is emptied and no setup write is made. -/
theorem test_rescan_unplugged :
    (rescan cfgT (small tTable none (List.replicate 96 false))).table = emptyTable ∧
      (rescan cfgT (small tTable none (List.replicate 96 false))).trace.length = 96 := by decide +kernel

/-- P2 t=2, its first and last device writes. -/
theorem test_desyncEnter_p2 :
    (enterRecovery cfgT 0x7F (small tTable (some tTopo) [])).desync = 4 ∧
      (enterRecovery cfgT 0x7F (small tTable (some tTopo) [])).pin = 0x8000 ∧
      (enterRecovery cfgT 0x7F (small tTable (some tTopo) [])).trace.length = 37 ∧
      (acts (enterRecovery cfgT 0x7F (small tTable (some tTopo) []))).getLast? = some (.write 0x30 [0x80]) := by
  decide +kernel

/-- Section 2.8: a bypass with DESYNC = 3. -/
theorem test_bypass_counts :
    exec .bypass { small tTable none [] with desync := 3 } = .next { small tTable none [] with desync := 2 } := rfl

/-- Section 2.4. -/
theorem test_pinApply :
    (pinApply 0x0001 (small emptyTable none [])).pin.getLsbD 0 = true ∧
      (pinApply 0x0001 (small emptyTable none [])).pin.getLsbD 15 = false ∧
      forFin 16 (setPinMsbFirst 0x1234) 0xFFFF = 0x1234 := by decide +kernel

/-- Section 2.7, last row: byte `k` is `k + 1`, the old byte 4 is 0x5A. -/
theorem test_echo :
    (echoFrame (Vector.ofFn fun k => BitVec.ofNat 8 (k.val + 1)) (Vector.replicate 36 0x5A)).toList =
      [0x01, 0x02, 0x03, 0x04, 0x5A] ++ List.replicate 27 0x00 ++ [0x21, 0x22, 0x23, 0x24] := by decide +kernel

/-- R254: the first reply is TX as it stood, and the request is dispatched. -/
theorem test_first_exchange_nop2 :
    (match step { small emptyTable none [] with requests := [[0xFF] ++ List.replicate 35 0x07] } with
      | .next t => decide (t.replies = [Vector.replicate 36 0]) && decide (t.diags = [.unknownSecondary 0x07]) &&
          t.requests.isEmpty
      | .fault _ => false
      | .refused _ => false) = true := by decide +kernel

/-- The word of a table row placed by `withFetchWord` is the next command of the machine right after reset. -/
theorem test_withFetchWord :
    (match step (State.reset.withFetchWord 16 0xFF42) with
      | .next t => t.rx[0] == 0xFF && t.rx[1] == 0x42 && t.requests.isEmpty && decide (t.diags = [.unknownSecondary 0x42])
      | .fault _ => false
      | .refused _ => false) = true := by decide +kernel

/-! For each statement with hypotheses, a case that meets them. -/

/-- The frame of a NOP2 with filler bytes. -/
def fillerFrame : Frame := (Vector.replicate 36 0x07).set 0 0xFF

/-- A frame whose byte 0 is bad. -/
def badFrame : Frame := Vector.replicate 36 0x00

/-- A booted block with requests waiting. -/
def waiting (desync : BitVec 3) (fs : List Frame) : State :=
  { small emptyTable none [] with desync := desync, requests := fs.map (·.toList) }

theorem test_meets_DecodeOfEncode :
    (Instr.nop2 0xF9).wellFormed = true ∧ (∃ f, encode (.nop2 0xF9) = some f) ∧
      (Instr.slab1set (Vector.replicate 8 0xFFFF)).wellFormed = true ∧
      (∃ f, encode (.slab1set (Vector.replicate 8 0xFFFF)) = some f) := ⟨rfl, ⟨_, rfl⟩, rfl, ⟨_, rfl⟩⟩

/-- Two frames of SLAB1SET that differ in an ignored byte. -/
theorem test_meets_DecodingIgnoresFields :
    decodeFrame ((fillerFrame.set 1 0xFD).set 20 0x99) = decodeFrame (fillerFrame.set 1 0xFD) ∧
      ∀ k : Fin 36, readsByte (decodeFrame (fillerFrame.set 1 0xFD)) k.val = true →
        (fillerFrame.set 1 0xFD)[k] = ((fillerFrame.set 1 0xFD).set 20 0x99)[k] := by decide +kernel

theorem test_meets_EncodingKeeps :
    (encode (decodeFrame fillerFrame)).isSome = true ∧ readsByte (decodeFrame fillerFrame) 1 = true := by decide

theorem test_meets_OnlyThirtySix :
    (List.replicate 36 (0 : Byte)).length = 36 ∧ (List.replicate 35 (0 : Byte)).length ≠ 36 := by decide

theorem test_meets_Clamp : (0x0FFF : U16).toNat < 4096 ∧ (0x0FA0 : U16).toNat ≤ (0x0FFF : U16).toNat := by decide

theorem test_meets_Wiper : (0x01F : U12).toNat ≤ (0x020 : U12).toNat := by decide

theorem test_meets_Worked : (0x0FFF : U16).toNat ≤ 4095 := by decide

theorem test_meets_BusWrite :
    let s := small emptyTable none [true]
    let u := { s with pin := 0xFFFF, desync := 4 }
    s.answers = u.answers ∧ s.bench = u.bench ∧ s.muxctl = u.muxctl ∧ s.dev = u.dev ∧ s.trace = u.trace :=
  ⟨rfl, rfl, rfl, rfl, rfl⟩

theorem test_meets_FailedWrite :
    (busWrite Config.cfg 0x20 [0x01] (small emptyTable none [false])).1 = false := rfl

theorem test_meets_Select : (15 : Byte).toNat < 16 ∧ 16 ≤ (16 : Byte).toNat ∧ 16 ≤ (255 : Byte).toNat := by decide

theorem test_meets_AcknowledgedSelect :
    ∃ evs : List BusEvent,
      (select Config.cfg (chanByte 15) (small emptyTable none [true, true, true])).trace =
        (small emptyTable none [true, true, true]).trace ++ evs.map Event.bus ∧ ∀ e ∈ evs, e.ack = true :=
  ⟨[⟨_, [0], true⟩, ⟨_, [0], true⟩, ⟨_, [0x80], true⟩], rfl, by simp⟩

theorem test_meets_BypassCounts :
    1 ≤ (waiting 1 []).desync.toNat ∧ (waiting 4 []).desync.toNat ≤ 4 := by decide

theorem test_meets_BypassOutside :
    (waiting 0 []).desync = 0 ∧ 4 < (waiting 5 []).desync.toNat ∧ 4 < (waiting 7 []).desync.toNat := by decide

theorem test_meets_OtherCommands :
    writesPins (.slab1set (Vector.replicate 8 0)) = false ∧
      ∃ t, exec (.nop2 0x42) (small emptyTable none []) = .next t := ⟨rfl, ⟨_, rfl⟩⟩

/-- A state of each clause: RESCAN, DESYNC_ENTER, BYPASS and another command all answer a next state. -/
theorem test_meets_CommandsChange :
    (∃ t, exec .rescan (waiting 0 []) = .next t) ∧ (∃ t, exec (.desyncEnter 0) (waiting 0 []) = .next t) ∧
      (∃ t, exec .bypass (waiting 1 []) = .next t) ∧ (∃ t, exec (.nop2 0) (waiting 0 []) = .next t) :=
  ⟨⟨_, rfl⟩, ⟨_, rfl⟩, ⟨_, rfl⟩, ⟨_, rfl⟩⟩

/-- Two states that differ in what the environment will answer. -/
theorem test_meets_AcknowledgeBits :
    SameBlock (small tTable none [true, true]) (small tTable none [false, false]) ∧
      (∃ t, exec (.slab1set (Vector.replicate 8 0)) (small tTable none [true, true]) = .next t) ∧
      (∃ t, exec (.slab1set (Vector.replicate 8 0)) (small tTable none [false, false]) = .next t) :=
  ⟨⟨rfl, rfl, rfl, rfl, rfl⟩, ⟨_, rfl⟩, ⟨_, rfl⟩⟩

theorem test_meets_VoltageCommands :
    writesVoltages (.allset 0 valuesP1) = true ∧ (small tTable (some tTopo) []).bench = some tTopo ∧
      (small tTable (some tTopo) []).answers = [] ∧
      ∃ t, exec (.allset 0 valuesP1) (small tTable (some tTopo) []) = .next t := ⟨rfl, rfl, rfl, ⟨_, rfl⟩⟩

theorem slotOf_emptyTable : ∀ c b, slotOf emptyTable c b = none := by decide

theorem tableWf_empty (cfg : Cfg) : TableWf cfg emptyTable where
  recognized c b a h := absurd h (by simp [slotOf_emptyTable])
  filledFromZero c h := absurd (slotOf_emptyTable c 1) h
  noRepeat c _ := slotOf_emptyTable c 0
  priorityOrder c x y h := absurd h (by simp [slotOf_emptyTable])

/-- A table with two present slots, both device addresses of the machine's configuration. -/
def twoSlots : Table := emptyTable.set 3 #v[some Config.cfg.dacA, some Config.cfg.pot]

theorem test_meets_AllsetFourWrites :
    Recognized Config.cfg (small twoSlots none []).table ∧ presentSlots (small twoSlots none []).table = 2 ∧
      exec (.allset 0 valuesP1) (small twoSlots none []) =
        .next (allset Config.cfg 0 valuesP1 (small twoSlots none [])) := by
  refine ⟨fun c b a h => ?_, rfl, rfl⟩
  have hc : twoSlots[c][b] = some a := h
  have hp : devType Config.cfg (some Config.cfg.pot) ≠ .unknown := by
    simp only [devType]
    split <;> simp
  by_cases h3 : c = 3
  · subst h3
    obtain rfl | rfl : b = 0 ∨ b = 1 := by omega
    · cases (hc : some Config.cfg.dacA = some a)
      simp [devType]
    · cases (hc : some Config.cfg.pot = some a)
      exact hp
  · have hne : 3 ≠ c.val := fun e => h3 (Fin.ext e.symm)
    have he : twoSlots[c] = emptyTable[c] := by simp [twoSlots, hne]
    rw [he] at hc
    exact absurd ((slotOf_emptyTable c b).symm.trans hc) (by simp)

theorem test_meets_EmptyTable :
    (small emptyTable none []).table = emptyTable ∧
      ∃ t, exec (.lb0set pairsP3) (small emptyTable none []) = .next t := ⟨rfl, ⟨_, rfl⟩⟩

/-- Every scan has blocks of the shape asked, and so have two scans of one state with the same bits. -/
theorem test_meets_ScanDependsOnProbes :
    ∃ bs : Channel → ScanBlock, ScanShape Config.cfg bs ∧
      (scan Config.cfg State.reset).trace = State.reset.trace ++ scanEvents bs ∧
      ∀ c, (bs c).probes.map (·.ack) = (bs c).probes.map (·.ack) := by
  obtain ⟨⟨bs, h1, h2⟩, _⟩ := scan_spec Config.cfg State.reset
  refine ⟨bs, fun c => ⟨?_, ?_⟩, by simpa using h1, fun _ => rfl⟩
  · simpa [selectActs] using congrArg List.length (h2 c).1
  · simpa using congrArg List.length (h2 c).2.1

theorem test_meets_StepRuns :
    (waiting 0 [fillerFrame]).booted = true ∧ NextRequest (waiting 0 [fillerFrame]) fillerFrame := ⟨rfl, rfl⟩

theorem test_meets_EveryExchange :
    (waiting 4 [fillerFrame]).desync.toNat ≤ 4 ∧
      ∀ bytes, (waiting 4 [fillerFrame]).requests.head? = some bytes → bytes.length = 36 := by
  refine ⟨by decide, fun bytes h => ?_⟩
  rw [← Option.some.inj h]
  exact Vector.length_toList

/-- Its second clause: transfers of 35 and 37 bytes; and DESYNC at 5 and 7, outside its range, is refused. -/
theorem test_meets_EveryExchange_refused :
    step { waiting 0 [] with requests := [List.replicate 35 0] } = .refused (.frameLength 35) ∧
      step { waiting 4 [] with requests := [List.replicate 37 0] } = .refused (.frameLength 37) ∧
      step (waiting 5 [badFrame]) = .refused (.desyncOutsideRecovery 5) ∧
      step (waiting 7 [badFrame]) = .refused (.desyncOutsideRecovery 7) := ⟨rfl, rfl, rfl, rfl⟩

/-- A frame of RESCAN with filler bytes. -/
theorem test_meets_Rescan : ((fillerFrame.set 1 0xFE)[0] : Byte) = 0xFF ∧ ((fillerFrame.set 1 0xFE)[1] : Byte) = 0xFE := by
  decide

/-- A state for each clause: a good frame and a bad one at 0, any frame at 1 and 4. -/
theorem test_meets_DesyncTransitions :
    NextRequest (waiting 0 [fillerFrame]) fillerFrame ∧ fillerFrame[0] = 0xFF ∧
      NextRequest (waiting 0 [badFrame]) badFrame ∧ badFrame[0] ≠ 0xFF ∧
      NextRequest (waiting 1 [badFrame]) badFrame ∧ (waiting 4 [badFrame]).desync.toNat ≤ 4 ∧
      (waiting 4 [badFrame]).booted = true := ⟨rfl, by decide, rfl, by decide, rfl, by decide, rfl⟩

theorem test_meets_ReplyEchoes :
    ∃ t u, step (waiting 2 [fillerFrame, badFrame]) = .next t ∧ NextRequest t badFrame ∧ step t = .next u := by
  have h : (waiting 2 [fillerFrame, badFrame]).requests = fillerFrame.toList :: [badFrame.toList] := rfl
  refine ⟨_, _, step_recovering (by rfl) h (by decide), by rfl, step_recovering (req := badFrame) (rest := []) ?_ ?_ ?_⟩
  · rfl
  · rfl
  · decide

theorem test_meets_RecoveryEnds :
    (waiting 4 [badFrame, fillerFrame, badFrame, fillerFrame]).booted = true ∧
      (waiting 4 [badFrame, fillerFrame, badFrame, fillerFrame]).desync = 4 ∧
      (waiting 4 [badFrame, fillerFrame, badFrame, fillerFrame]).requests =
        badFrame.toList :: fillerFrame.toList :: badFrame.toList :: fillerFrame.toList :: [] := ⟨rfl, rfl, rfl⟩

theorem test_meets_BadFrames :
    (waiting 0 (List.replicate 5 badFrame)).booted = true ∧ (waiting 0 (List.replicate 5 badFrame)).desync = 0 ∧
      (List.replicate 5 badFrame).length = 5 * 1 ∧ (∀ f ∈ List.replicate 5 badFrame, f[0] ≠ 0xFF) ∧
      (waiting 0 (List.replicate 5 badFrame)).requests = (List.replicate 5 badFrame).map (·.toList) :=
  ⟨rfl, rfl, rfl, fun f hf => by rw [List.eq_of_mem_replicate hf]; decide, rfl⟩

theorem test_meets_Boot : State.reset.booted = false := rfl

theorem test_meets_NothingHappens : (waiting 3 []).booted = true ∧ (waiting 3 []).requests = [] := ⟨rfl, rfl⟩

theorem test_meets_OtherTransfers :
    ({ waiting 0 [] with requests := [[0xFF]] } : State).requests.head? = some [0xFF] ∧
      [(0xFF : Byte)].length ≠ 36 := ⟨rfl, by decide⟩

/-- A valid configuration, and one for each way to break it: equal addresses, a repeated candidate, a foreign one. -/
theorem test_meets_InvalidConfigurations :
    cfgT.Valid ∧ ¬ ({ cfgT with pot := 0x20 } : Cfg).Valid ∧
      ¬ ({ cfgT with candidates := [0x20, 0x30, 0x20] } : Cfg).Valid ∧
      ¬ ({ cfgT with candidates := [0x20, 0x55] } : Cfg).Valid := by decide

theorem test_meets_StepKeepsInvariant : Inv (waiting 4 []) ∧ ∃ t, step (waiting 4 []) = .next t :=
  ⟨⟨by decide, tableWf_empty _, ⟨List.Pairwise.nil, by simp [waiting, small, State.reset]⟩⟩, ⟨_, rfl⟩⟩

/-- The environment of the test vectors is the one that `inBench` begins. -/
theorem test_small_inBench (table : Table) :
    small table (some tTopo) [] = (small table none []).inBench tTopo := rfl

theorem test_bench_mux_acks :
    benchAck cfgT tTopo (small emptyTable (some tTopo) []) 0x10 = true ∧
      benchAck cfgT tTopo (small emptyTable (some tTopo) []) 0x20 = false := by decide

theorem test_meets_EnvFollows :
    (∃ t, exec (.lb0set pairsP3) (small emptyTable none []) = .next t) ∧ ∃ t, step State.reset = .next t :=
  ⟨⟨_, exec_lb0set _ _⟩, ⟨_, rfl⟩⟩

/-- The premises on the environment of RESCAN's, the scan's and the multiplexers' statements. -/
theorem test_meets_ScanLeaves :
    cfgT.Valid ∧ cfgT.probePayload = none ∧ (small emptyTable (some tTopo) []).bench = some tTopo ∧
      (small emptyTable (some tTopo) []).answers = [] := ⟨cfgT_valid, rfl, rfl, rfl⟩

end Sys2Proof.Tests
end

section
/-! The kinds of device by the addresses of the configuration (10_state.md R24). -/

namespace Sys2Proof.Machine

open Sys2Proof

/-- R7 keeps the potentiometer's address apart from both DACs', so that R24's cases exclude each other. -/
theorem pot_ne_dac_of_valid {cfg : Cfg} (h : cfg.Valid) : cfg.pot ≠ cfg.dacA ∧ cfg.pot ≠ cfg.dacB := by
  obtain ⟨distinct, -, -⟩ := h
  simp only [Cfg.addresses, List.nodup_cons, List.mem_cons, not_or] at distinct
  obtain ⟨-, -, ⟨-, hA, -⟩, ⟨hB, -⟩, -⟩ := distinct
  exact ⟨Ne.symm hA, Ne.symm hB⟩

@[simp] theorem devType_none (cfg : Cfg) : devType cfg none = .unknown := rfl

theorem devType_some_of_dac {cfg : Cfg} {a : BusAddr} (h : a = cfg.dacA ∨ a = cfg.dacB) :
    devType cfg (some a) = .dac := if_pos h

theorem devType_some_pot {cfg : Cfg} (h : cfg.Valid) : devType cfg (some cfg.pot) = .pot := by
  simp [devType, pot_ne_dac_of_valid h]

theorem devType_some_of_ne {cfg : Cfg} {a : BusAddr} (hA : a ≠ cfg.dacA) (hB : a ≠ cfg.dacB) (hP : a ≠ cfg.pot) :
    devType cfg (some a) = .unknown := by
  simp [devType, hA, hB, hP]

/-- Settles O14: an address is a DAC's, the potentiometer's or neither, and for a valid configuration no two of these
hold at once. -/
theorem deviceTypeIsAFunctionOfTheAddress : Obligations.DeviceTypeIsAFunctionOfTheAddress := by
  intro slot
  have valid := Config.cfg_valid
  obtain ⟨potA, potB⟩ := pot_ne_dac_of_valid valid
  cases slot with
  | none => simp
  | some a =>
    by_cases dac : a = Config.cfg.dacA ∨ a = Config.cfg.dacB
    · have notPot : a ≠ Config.cfg.pot := by
        rintro rfl
        exact dac.elim potA potB
      simpa [devType_some_of_dac dac, notPot, or_iff_not_imp_left] using dac
    · obtain ⟨notA, notB⟩ := not_or.mp dac
      by_cases pot : a = Config.cfg.pot
      · subst pot
        simp [devType_some_pot valid, potA, potB]
      · simp [devType_some_of_ne notA notB pot, notA, notB, pot]

end Sys2Proof.Machine
end

section
/-! What a bus write depends on (20_memory.md R50, R51): the environment and the history alone. -/

namespace Sys2Proof.Machine

open Sys2Proof

theorem ackOf_settled {cfg : Cfg} {s : State} {ack : Bool} {rest : List Bool} (h : s.answers = ack :: rest)
    (a : BusAddr) (bytes : List Byte) : ackOf cfg s a bytes = ack := by
  simp [ackOf, h]

theorem ackOf_oracle {cfg : Cfg} {s : State} (ha : s.answers = []) (hb : s.bench = none)
    (a : BusAddr) (bytes : List Byte) : ackOf cfg s a bytes = Config.oracle (busHistory s) a bytes := by
  simp [ackOf, ha, hb]

theorem busHistory_congr {s u : State} (trace : s.trace = u.trace) : busHistory s = busHistory u := by
  rw [busHistory, busHistory, trace]

theorem benchAck_congr {s u : State} (muxctl : s.muxctl = u.muxctl) (cfg : Cfg) (topo : Topology) (a : BusAddr) :
    benchAck cfg topo s a = benchAck cfg topo u a := by
  rw [benchAck, benchAck, muxctl]

/-- Each of R51's three sources of the acknowledge bit is a part of the environment or the history. -/
theorem ackOf_congr {s u : State} (answers : s.answers = u.answers) (bench : s.bench = u.bench)
    (muxctl : s.muxctl = u.muxctl) (trace : s.trace = u.trace) (cfg : Cfg) (a : BusAddr) (bytes : List Byte) :
    ackOf cfg s a bytes = ackOf cfg u a bytes := by
  cases hu : u.answers with
  | cons ack rest => rw [ackOf_settled (answers.trans hu), ackOf_settled hu]
  | nil =>
    cases hb : u.bench with
    | some topo =>
      rw [ackOf_bench (bench.trans hb) (answers.trans hu), ackOf_bench hb hu, benchAck_congr muxctl]
    | none =>
      rw [ackOf_oracle (answers.trans hu) (bench.trans hb), ackOf_oracle hu hb, busHistory_congr trace]

/-- Settles O17: a bus write is traffic, which keeps the block state, and once the acknowledge bits of two states agree,
so do the multiplexers, the devices and the record it leaves. -/
theorem busWriteReadsAndWritesNoBlockState : Obligations.BusWriteReadsAndWritesNoBlockState := by
  intro a bytes s u
  obtain ⟨blockKept, -⟩ := busWrite_traffic Config.cfg a bytes s
  refine ⟨busWrite_trace .., blockKept, fun answers bench muxctl dev trace => ?_⟩
  have sameAck := ackOf_congr answers bench muxctl trace Config.cfg a bytes
  simp [sameAck, bench, muxctl, dev, trace]

end Sys2Proof.Machine
end

section
/-! What a scan's table is made of (41_topology_scan.md R120 to R126): the first two acknowledged candidates of each
channel, read off the channel's own part of the record. -/

namespace Sys2Proof.Machine

open Sys2Proof

/-! The invariants of the table (10_state.md R23) hold because acknowledging only thins out the candidate list. -/

/-- A part of a list without repeats keeps its order. -/
theorem idxOf_lt_of_sublist {part l : List BusAddr} (nodup : l.Nodup) (sub : part.Sublist l) {x y : BusAddr}
    (first : part[0]? = some x) (second : part[1]? = some y) : l.idxOf x < l.idxOf y := by
  have ascending : l.Pairwise fun x y => l.idxOf x < l.idxOf y :=
    List.pairwise_iff_getElem.mpr fun i j hi hj lt => by
      rwa [nodup.idxOf_getElem i hi, nodup.idxOf_getElem j hj]
  obtain ⟨h0, rfl⟩ := List.getElem?_eq_some_iff.mp first
  obtain ⟨h1, rfl⟩ := List.getElem?_eq_some_iff.mp second
  exact List.pairwise_iff_getElem.mp (ascending.sublist sub) 0 1 h0 h1 Nat.zero_lt_one

theorem ScanBlock.acked_sublist {b : ScanBlock} {l : List BusAddr} {payload : List Byte}
    (probed : b.probes.map (fun e => (e.addr, e.bytes)) = l.map (fun a => (a, payload))) : b.acked.Sublist l := by
  have addrs : b.probes.map (·.addr) = l := by
    simpa [Function.comp_def] using congrArg (List.map Prod.fst) probed
  exact addrs ▸ List.filter_sublist.map _

theorem slotOf_eq_getElem?_of_firstTwo {t : Table} {c : Channel} {l : List BusAddr} (h : t[c] = firstTwo l) :
    ∀ b : Fin 2, slotOf t c b = l[b.val]?
  | 0 => by rw [slotOf, h]; rfl
  | 1 => by rw [slotOf, h]; rfl

/-- A table whose channels each hold the first two members of a part of the candidate list meets R23. -/
theorem tableWf_of_firstTwo {cfg : Cfg} (nodup : cfg.candidates.Nodup) {t : Table} (acked : Channel → List BusAddr)
    (sub : ∀ c, (acked c).Sublist cfg.candidates) (slots : ∀ c, t[c] = firstTwo (acked c)) : TableWf cfg t := by
  have slot c := slotOf_eq_getElem?_of_firstTwo (slots c)
  have ascending {c x y} (first : slotOf t c 0 = some x) (second : slotOf t c 1 = some y) :
      cfg.candidates.idxOf x < cfg.candidates.idxOf y :=
    idxOf_lt_of_sublist nodup (sub c) ((slot c 0).symm.trans first) ((slot c 1).symm.trans second)
  constructor
  case recognized => exact fun c b a held => (sub c).subset (List.mem_of_getElem? ((slot c b).symm.trans held))
  case filledFromZero =>
    intro c
    simp only [slot, ne_eq, List.getElem?_eq_none_iff]
    omega
  case noRepeat =>
    intro c same
    cases first : slotOf t c 0 with
    | none => rfl
    | some x => exact absurd (ascending first (same ▸ first)) (lt_irrefl _)
  case priorityOrder => exact fun _ _ _ => ascending

theorem ScanOutcome.tableWf {cfg : Cfg} (nodup : cfg.candidates.Nodup) {s t : State} {rest : List Event}
    (h : ScanOutcome cfg s t rest) : TableWf cfg t.table := by
  obtain ⟨bs, -, recorded⟩ := h
  exact tableWf_of_firstTwo nodup (fun c => (bs c).acked) (fun c => ScanBlock.acked_sublist (recorded c).2.1)
    fun c => (recorded c).2.2

theorem scan_tableWf {cfg : Cfg} (nodup : cfg.candidates.Nodup) (s : State) : TableWf cfg (scan cfg s).table :=
  (scan_spec cfg s).1.tableWf nodup

/-! A record of the shape of a scan can be cut into its channels' blocks in one way only. -/

theorem scanEvents_inj {cfg : Cfg} {bs cs : Channel → ScanBlock} (shapeB : ScanShape cfg bs)
    (shapeC : ScanShape cfg cs) (same : scanEvents bs = scanEvents cs) (c : Channel) :
    (bs c).sel = (cs c).sel ∧ (bs c).probes = (cs c).probes := by
  have lengths : ∀ c ∈ List.finRange 16, (((bs c).sel ++ (bs c).probes).map Event.bus).length =
      (((cs c).sel ++ (cs c).probes).map Event.bus).length := fun c _ => by
    simp [shapeB c, shapeC c]
  have parts := List.eq_iff_flatten_eq.mpr ⟨same, by simpa using lengths⟩
  have channel := List.map_inj_left.mp parts c (List.mem_finRange c)
  have events := Function.Injective.list_map (fun _ _ => Event.bus.inj) channel
  exact List.append_inj events ((shapeB c).1.trans (shapeC c).1.symm)

theorem scan_blocks {cfg : Cfg} {s : State} {bs : Channel → ScanBlock} (shape : ScanShape cfg bs)
    (trace : (scan cfg s).trace = s.trace ++ scanEvents bs) (c : Channel) :
    (bs c).probes.map (fun e => (e.addr, e.bytes)) = cfg.candidates.map (fun a => (a, cfg.probePayload.toList)) ∧
      (scan cfg s).table[c] = firstTwo (bs c).acked := by
  obtain ⟨⟨ds, traceD, recorded⟩, -⟩ := scan_spec cfg s
  have shapeD : ScanShape cfg ds := fun c =>
    ⟨by simpa [selectActs] using congrArg List.length (recorded c).1,
      by simpa using congrArg List.length (recorded c).2.1⟩
  have sameEvents : scanEvents bs = scanEvents ds := by
    rw [trace, List.append_nil] at traceD
    exact List.append_cancel_left traceD
  obtain ⟨-, sameProbes⟩ := scanEvents_inj shape shapeD sameEvents c
  rw [ScanBlock.acked, sameProbes]
  exact (recorded c).2

/-! The probes of two scans differ at most in their acknowledge bits. -/

theorem busEvents_eq_of_fields {es fs : List BusEvent}
    (writes : es.map (fun e => (e.addr, e.bytes)) = fs.map (fun e => (e.addr, e.bytes)))
    (acks : es.map (·.ack) = fs.map (·.ack)) : es = fs := by
  have fields : Function.Injective fun e : BusEvent => ((e.addr, e.bytes), e.ack) := by
    rintro ⟨a, bytes, k⟩ ⟨a', bytes', k'⟩ h
    simpa [and_assoc] using h
  have paired := congrArg₂ List.zip writes acks
  rw [List.zip_map', List.zip_map'] at paired
  exact fields.list_map paired

/-- The oracle, the earlier record and the old table reach the new table through the acknowledge bits alone (R122,
R126). -/
theorem scan_table_congr {cfg : Cfg} {s u : State} {bs cs : Channel → ScanBlock} (shapeB : ScanShape cfg bs)
    (shapeC : ScanShape cfg cs) (traceB : (scan cfg s).trace = s.trace ++ scanEvents bs)
    (traceC : (scan cfg u).trace = u.trace ++ scanEvents cs)
    (acks : ∀ c, (bs c).probes.map (·.ack) = (cs c).probes.map (·.ack)) :
    (scan cfg s).table = (scan cfg u).table := by
  refine Vector.ext fun i hi => ?_
  obtain ⟨probesB, slotsB⟩ := scan_blocks shapeB traceB ⟨i, hi⟩
  obtain ⟨probesC, slotsC⟩ := scan_blocks shapeC traceC ⟨i, hi⟩
  have sameProbes := busEvents_eq_of_fields (probesB.trans probesC.symm) (acks ⟨i, hi⟩)
  calc (scan cfg s).table[i]
      = firstTwo (bs ⟨i, hi⟩).acked := slotsB
    _ = firstTwo (cs ⟨i, hi⟩).acked := by rw [ScanBlock.acked, sameProbes, ← ScanBlock.acked]
    _ = (scan cfg u).table[i] := slotsC.symm

/-- Settles O36: the table holds the first two acknowledged candidates of each channel, which gives its invariants, and
the record together with the candidates fixes which those are. -/
theorem scanTableIsWellFormedAndDependsOnProbesAlone : Obligations.ScanTableIsWellFormedAndDependsOnProbesAlone :=
  ⟨scan_tableWf Config.cfg_valid.2.1, fun _ _ _ _ => scan_table_congr⟩

end Sys2Proof.Machine
end

section
/-! What one device write sends (42_voltage_encode.md R139), and the source's two worked writes (R143). -/

namespace Sys2Proof.Machine

open Sys2Proof

theorem deviceBytes_of_dac {cfg : Cfg} {a : BusAddr} (h : a = cfg.dacA ∨ a = cfg.dacB) (n : Nat) :
    deviceBytes cfg a n = some (dacBytes n) := if_pos h

theorem deviceBytes_pot {cfg : Cfg} (h : cfg.Valid) (n : Nat) : deviceBytes cfg cfg.pot n = some [potByte n] := by
  simp [deviceBytes, pot_ne_dac_of_valid h]

theorem writeV_dac_issues {cfg : Cfg} {a : BusAddr} (h : a = cfg.dacA ∨ a = cfg.dacB) (raw : U16) (s : State) :
    Issues s (writeV cfg (some a) raw s) [.write a (dacBytes (clampNat raw.toNat))] := by
  simpa [deviceBytes_of_dac h] using (writeV_traffic cfg a raw s).2

theorem writeV_pot_issues {cfg : Cfg} (h : cfg.Valid) (raw : U16) (s : State) :
    Issues s (writeV cfg (some cfg.pot) raw s) [.write cfg.pot [potByte (clampNat raw.toNat)]] := by
  simpa [deviceBytes_pot h] using (writeV_traffic cfg cfg.pot raw s).2

/-- On the 12-bit range masking drops nothing, so clamping first and masking first agree (R143). -/
theorem clampNat_of_le {n : Nat} (h : n ≤ 4095) : clampNat n = min n 4000 := by
  rw [clampNat, Nat.mod_eq_of_lt (Nat.lt_succ_of_le h)]

/-- Settles O15: each write sends its device type's encoding of the masked and clamped value. The ceiling `0x0FA0` is
wiper byte 3, and `0x1000` has only bit 12, which the mask drops before the clamp could see it. -/
theorem workedVoltageWrites : Obligations.WorkedVoltageWrites := by
  have wiperAtCeiling : potByte (clampNat (0x0FA0 : U16).toNat) = 0x03 := by decide
  have dacPastMask : dacBytes (clampNat (0x1000 : U16).toNat) = [0x00, 0x00] := by decide
  refine ⟨fun s => ?pot, fun s => ?dac, fun raw inRange => ?agree⟩
  case pot => simpa only [wiperAtCeiling] using writeV_pot_issues Config.cfg_valid 0x0FA0 s
  case dac => simpa only [dacPastMask] using writeV_dac_issues (.inl rfl) 0x1000 s
  case agree => rw [clamp12_toNat, clampNat_of_le inRange]

end Sys2Proof.Machine
end

section
/-! Which commands leave the pins alone (43_pin_demux.md R159). -/

namespace Sys2Proof.Machine

open Sys2Proof

/-- From `s` to `t` PIN is kept and no pin event is recorded. -/
def LeavesPins (s t : State) : Prop :=
  t.pin = s.pin ∧ ∃ evs, t.trace = s.trace ++ evs ∧ pinEvents evs = []

theorem pinEvents_append (es fs : List Event) : pinEvents (es ++ fs) = pinEvents es ++ pinEvents fs :=
  List.filterMap_append

theorem pinEvents_map_bus (es : List BusEvent) : pinEvents (es.map Event.bus) = [] := by
  simp [pinEvents]

theorem pinEvents_scanEvents (bs : Channel → ScanBlock) : pinEvents (scanEvents bs) = [] := by
  rw [scanEvents, ← List.map_flatMap, pinEvents_map_bus]

theorem LeavesPins.of_trace_eq {s t : State} (pin : t.pin = s.pin) (trace : t.trace = s.trace) : LeavesPins s t :=
  ⟨pin, [], by simpa using trace, rfl⟩

theorem LeavesPins.trans {s t u : State} (h : LeavesPins s t) (k : LeavesPins t u) : LeavesPins s u := by
  obtain ⟨pinT, es, traceT, noneT⟩ := h
  obtain ⟨pinU, fs, traceU, noneU⟩ := k
  exact ⟨pinU.trans pinT, es ++ fs, by rw [traceU, traceT, List.append_assoc],
    by rw [pinEvents_append, noneT, noneU, List.append_nil]⟩

/-- Traffic whose actions are bus writes alone leaves the pins. -/
theorem Traffic.leavesPins {s t : State} {as : List Act} (h : Traffic s t as) (writes : ∀ m, Act.pins m ∉ as) :
    LeavesPins s t := by
  obtain ⟨blockKept, evs, trace, acts⟩ := h
  obtain ⟨es, rfl, -⟩ := busEvents_of_writes acts writes
  exact ⟨blockKept.pin, _, trace, pinEvents_map_bus es⟩

/-! No walk over the slots contains a pin action: not one slot of it does. -/

theorem pins_not_mem_slotActs (cfg : Cfg) (c : Channel) (raw : U16) (slot : Slot) (m : U16) :
    Act.pins m ∉ slotActs cfg c raw slot := by
  cases slot with
  | none => exact List.not_mem_nil
  | some a => simp [slotActs, pins_not_mem_selectActs]

theorem pins_not_mem_vsetActs (cfg : Cfg) (t : Table) (lo n : Nat) (h : lo + n ≤ 16) (src : Fin n → U16) (m : U16) :
    Act.pins m ∉ vsetActs cfg t lo n h src := by
  simp [vsetActs, pins_not_mem_slotActs]

theorem pins_not_mem_lbsetSlotActs (cfg : Cfg) (c : Channel) (pair : LbPair) (slot : Slot) (m : U16) :
    Act.pins m ∉ lbsetSlotActs cfg c pair slot := by
  cases slot with
  | none => exact List.not_mem_nil
  | some a =>
    by_cases dac : isDac cfg a
    · simp [lbsetSlotActs, dac, pins_not_mem_selectActs]
    · simp [lbsetSlotActs, dac]

theorem pins_not_mem_lbsetActs (cfg : Cfg) (t : Table) (slab : Fin 2) (p : Vector LbPair 16) (m : U16) :
    Act.pins m ∉ lbsetActs cfg t slab p := by
  simp [lbsetActs, pins_not_mem_lbsetSlotActs]

theorem pins_not_mem_lbcfgSlotActs (cfg : Cfg) (c : Channel) (slot : Slot) (m : U16) :
    Act.pins m ∉ lbcfgSlotActs cfg c slot := by
  cases slot with
  | none => exact List.not_mem_nil
  | some a =>
    by_cases dac : isDac cfg a
    · simp [lbcfgSlotActs, dac, pins_not_mem_selectActs]
    · simp [lbcfgSlotActs, dac]

theorem pins_not_mem_lbcfgActs (cfg : Cfg) (t : Table) (slab : Fin 2) (m : U16) :
    Act.pins m ∉ lbcfgActs cfg t slab := by
  simp [lbcfgActs, pins_not_mem_lbcfgSlotActs]

/-! The commands that do not invoke PINAPPLY, and their parts. -/

theorem slab1set_leavesPins (cfg : Cfg) (v : Vector U16 8) (s : State) : LeavesPins s (slab1set cfg v s) :=
  (vset_traffic cfg 8 8 _ _ s).leavesPins (pins_not_mem_vsetActs cfg s.table 8 8 _ _)

theorem lbset_leavesPins (cfg : Cfg) (slab : Fin 2) (p : Vector LbPair 16) (s : State) :
    LeavesPins s (lbset cfg slab p s) :=
  (lbset_traffic cfg slab p s).leavesPins (pins_not_mem_lbsetActs cfg s.table slab p)

theorem lbcfg_leavesPins (cfg : Cfg) (slab : Fin 2) (s : State) : LeavesPins s (lbcfg cfg slab s) :=
  (lbcfg_traffic cfg slab s).leavesPins (pins_not_mem_lbcfgActs cfg s.table slab)

theorem scan_leavesPins (cfg : Cfg) (s : State) : LeavesPins s (scan cfg s) := by
  obtain ⟨⟨bs, trace, -⟩, blockKept⟩ := scan_spec cfg s
  exact ⟨blockKept.pin, scanEvents bs, by rwa [List.append_nil] at trace, pinEvents_scanEvents bs⟩

theorem rescan_leavesPins (cfg : Cfg) (s : State) : LeavesPins s (rescan cfg s) :=
  ((scan_leavesPins cfg s).trans (lbcfg_leavesPins cfg 0 _)).trans (lbcfg_leavesPins cfg 1 _)

theorem diag_leavesPins (d : Diag) (s : State) : LeavesPins s (diag d s) :=
  .of_trace_eq (diag_pin d s) (diag_trace d s)

theorem leaveRecoveryStep_leavesPins (s : State) : LeavesPins s (leaveRecoveryStep s) :=
  .of_trace_eq (leaveRecoveryStep_pin s) (leaveRecoveryStep_trace s)

/-- Settles O30, command by command: the six that R159 names are made of bus writes, diagnostics and the countdown. -/
theorem otherCommandsLeaveThePins : Obligations.OtherCommandsLeaveThePins := by
  intro i s t noPins ran
  change LeavesPins s t
  cases i with
  | allset | slab0set | desyncEnter => exact nomatch noPins
  | rescan => exact next_inj ran ▸ rescan_leavesPins Config.cfg s
  | slab1set v => exact next_inj ran ▸ slab1set_leavesPins Config.cfg v s
  | lb1set p => exact next_inj ran ▸ lbset_leavesPins Config.cfg 1 p s
  | lb0set p => exact next_inj ran ▸ lbset_leavesPins Config.cfg 0 p s
  | nop2 b => exact next_inj ran ▸ diag_leavesPins (.unknownSecondary b) s
  | bypass =>
    obtain ⟨-, rfl⟩ := exec_bypass_next ran
    exact leaveRecoveryStep_leavesPins s

end Sys2Proof.Machine
end

section
/-! The lightbar's scale (44_lightbar.md R165). -/

namespace Sys2Proof.Machine

open Sys2Proof

theorem zeroExtend_mul_sixteen (vb : Byte) : vb.zeroExtend 16 * 16 = BitVec.ofNat 16 (vb.toNat * 16) := by
  apply BitVec.eq_of_toNat_eq
  simp

theorem lbScale_eq_clamp12 (vb : Byte) : lbScale vb = clamp12 (BitVec.ofNat 16 (vb.toNat * 16)) := by
  rw [lbScale, zeroExtend_mul_sixteen]

/-- Settles O13: 16 times a byte is at most 4080, so the 12-bit mask drops nothing and only the ceiling is left to
decide: `16 * 250` is the ceiling itself. -/
theorem lightbarScaleIsSixteenFoldUpToTheCeiling : Obligations.LightbarScaleIsSixteenFoldUpToTheCeiling := by
  refine fun vb => ⟨lbScale_eq_clamp12 vb, ?_⟩
  rw [lbScale_toNat]
  split
  case isTrue upTo => exact Nat.min_eq_left (by omega)
  case isFalse above => exact Nat.min_eq_right (by omega)

end Sys2Proof.Machine
end

section
/-! How desync is seen (60_exceptions.md R224): which frames decode to DESYNC_ENTER and when an exchange is a bypass. -/

namespace Sys2Proof.Machine

open Sys2Proof

@[simp] theorem decodeExchange_zero (f : Frame) : decodeExchange 0 f = decodeFrame f := rfl

theorem decodeExchange_of_ne_zero {d : BitVec 3} (h : d ≠ 0) (f : Frame) : decodeExchange d f = .bypass :=
  if_pos h

theorem decodeFrame_of_op0_ne {f : Frame} (h : op0 f ≠ 0xFF) : decodeFrame f = .desyncEnter (op0 f) := if_pos h

theorem decodeFrame_ne_bypass (f : Frame) : decodeFrame f ≠ .bypass := by
  unfold decodeFrame
  split_ifs <;> exact Instr.noConfusion

/-- The test of byte 0 comes first, so no value of byte 1 turns a good frame into a desync. -/
theorem decodeFrame_ne_desyncEnter {f : Frame} (h : op0 f = 0xFF) (b : Byte) : decodeFrame f ≠ .desyncEnter b := by
  unfold decodeFrame
  rw [if_neg (not_not_intro h)]
  split_ifs <;> exact Instr.noConfusion

/-- Settles O7: with DESYNC other than 0 the exchange is a bypass whatever the frame holds; with DESYNC 0 byte 0 alone
decides. -/
theorem desyncIsDetectedByByteZeroAlone : Obligations.DesyncIsDetectedByByteZeroAlone := by
  intro d f
  constructor
  · rintro ⟨b, decoded⟩
    by_cases synchronized : d = 0
    · subst synchronized
      exact ⟨rfl, fun good => decodeFrame_ne_desyncEnter good b decoded⟩
    · exact nomatch (decodeExchange_of_ne_zero synchronized f).symm.trans decoded
  · rintro ⟨rfl, bad⟩
    exact ⟨op0 f, decodeFrame_of_op0_ne bad⟩

end Sys2Proof.Machine
end

section
/-! What a step answers for each arrival (45_commands.md R180), and that every exchange completes (60_exceptions.md R229). -/

namespace Sys2Proof.Machine

open Sys2Proof

/-! The step, one equation for each arrival. -/

theorem step_unbooted {s : State} (h : s.booted = false) : step s = .next (boot Config.cfg s) := by
  simp [step, h]

theorem step_idle {s : State} (booted : s.booted = true) (h : s.requests = []) : step s = .next s := by
  simp [step, booted, arrival, h]

theorem step_frame {s : State} {bytes : List Byte} {rest : List (List Byte)} {req : Frame} (booted : s.booted = true)
    (h : s.requests = bytes :: rest) (frame : frameOfBytes bytes = some req) : step s = exchange req s := by
  simp [step, booted, arrival, h, frame]

theorem step_wrongLength {s : State} {bytes : List Byte} {rest : List (List Byte)} (booted : s.booted = true)
    (h : s.requests = bytes :: rest) (length : bytes.length ≠ 36) :
    step s = .refused (.frameLength bytes.length) := by
  simp [step, booted, arrival, h, frameOfBytes_none length]

/-- Settles O45: the idle arrival's equation of the step. -/
theorem nothingHappensBetweenExchanges : Obligations.NothingHappensBetweenExchanges :=
  fun _ booted noRequest => step_idle booted noRequest

/-! Completion. -/

theorem recovering_iff (d : BitVec 3) : recovering d = true ↔ d ≠ 0 ∧ d.toNat ≤ 4 := by
  simp [recovering, Nat.pos_iff_ne_zero, BitVec.toNat_eq]

/-- Only BYPASS looks at DESYNC before it acts; every other command completes from any state. -/
theorem exec_completes {i : Instr} {s : State} (h : i = .bypass → recovering s.desync = true) :
    ∃ t, exec i s = .next t := by
  cases i with
  | allset pins v => exact ⟨_, exec_allset pins v s⟩
  | rescan => exact ⟨_, exec_rescan s⟩
  | slab0set pins v => exact ⟨_, exec_slab0set pins v s⟩
  | slab1set v => exact ⟨_, exec_slab1set v s⟩
  | lb1set p => exact ⟨_, exec_lb1set p s⟩
  | lb0set p => exact ⟨_, exec_lb0set p s⟩
  | nop2 b => exact ⟨_, exec_nop2 b s⟩
  | desyncEnter b => exact ⟨_, exec_desyncEnter b s⟩
  | bypass => exact ⟨_, (exec_bypass s).trans (if_pos (h rfl))⟩

/-- A dispatched frame is no bypass, and a bypass runs only where DESYNC is in 1..4. -/
theorem exchange_completes {s : State} (range : s.desync.toNat ≤ 4) (req : Frame) :
    ∃ t, exchange req s = .next t := by
  have bypassRecovers : decodeExchange s.desync req = .bypass → recovering (latch req s).desync = true := by
    intro bypass
    refine (recovering_iff s.desync).mpr ⟨fun synchronized => ?_, range⟩
    rw [synchronized, decodeExchange_zero] at bypass
    exact decodeFrame_ne_bypass req bypass
  obtain ⟨u, ran⟩ := exec_completes bypassRecovers
  exact ⟨echo u, by rw [exchange, ran, finish]⟩

/-- For DESYNC in 0..4 a step has two outcomes: a next state, or the refusal of a transfer by its length. -/
theorem step_completes_or_refuses_length {s : State} (range : s.desync.toNat ≤ 4) :
    (∃ t, step s = .next t) ∨
    ∃ bytes, s.requests.head? = some bytes ∧ bytes.length ≠ 36 ∧ step s = .refused (.frameLength bytes.length) := by
  cases booted : s.booted with
  | false => exact .inl ⟨_, step_unbooted booted⟩
  | true =>
    cases requests : s.requests with
    | nil => exact .inl ⟨s, step_idle booted requests⟩
    | cons bytes rest =>
      by_cases length : bytes.length = 36
      · obtain ⟨req, frame⟩ := frameOfBytes_some length
        obtain ⟨t, ran⟩ := exchange_completes range req
        exact .inl ⟨t, (step_frame booted requests frame).trans ran⟩
      · exact .inr ⟨bytes, rfl, length, step_wrongLength booted requests length⟩

/-- Settles O39: each clause excludes one of the two outcomes; `Fault` has no member. -/
theorem everyExchangeCompletes : Obligations.EveryExchangeCompletes := by
  refine fun s => ⟨fun range => ⟨fun frames => ?_, fun r refused => ?_⟩, fun r => nomatch r⟩
  · refine (step_completes_or_refuses_length range).resolve_right ?_
    rintro ⟨bytes, arrived, length, -⟩
    exact length (frames bytes arrived)
  · obtain ⟨t, completed⟩ | ⟨bytes, arrived, length, refusedLength⟩ := step_completes_or_refuses_length range
    · exact nomatch completed.symm.trans refused
    · exact ⟨bytes, arrived, length, Host.Outcome.refused.inj (refused.symm.trans refusedLength)⟩

end Sys2Proof.Machine
end

section
/-! Recovery ends by count (60_exceptions.md R226): a run of bypassed exchanges moves DESYNC and the link, nothing else. -/

namespace Sys2Proof.Machine

open Sys2Proof

/-- What bypassed exchanges keep: all but DESYNC, the requests, and the link's RX, TX and replies. -/
structure BypassKeeps (s t : State) : Prop where
  booted : t.booted = s.booted
  table : t.table = s.table
  pin : t.pin = s.pin
  muxctl : t.muxctl = s.muxctl
  dev : t.dev = s.dev
  answers : t.answers = s.answers
  bench : t.bench = s.bench
  trace : t.trace = s.trace
  diags : t.diags = s.diags

theorem BypassKeeps.refl (s : State) : BypassKeeps s s := ⟨rfl, rfl, rfl, rfl, rfl, rfl, rfl, rfl, rfl⟩

theorem BypassKeeps.trans {s t u : State} (h : BypassKeeps s t) (k : BypassKeeps t u) : BypassKeeps s u where
  booted := k.booted.trans h.booted
  table := k.table.trans h.table
  pin := k.pin.trans h.pin
  muxctl := k.muxctl.trans h.muxctl
  dev := k.dev.trans h.dev
  answers := k.answers.trans h.answers
  bench := k.bench.trans h.bench
  trace := k.trace.trans h.trace
  diags := k.diags.trans h.diags

theorem recovering_toNat_sub_one {d : BitVec 3} (h : recovering d = true) : (d - 1).toNat = d.toNat - 1 := by
  obtain ⟨nonzero, -⟩ := (recovering_iff d).mp h
  bv_omega

theorem run_succ_of_step {s u : State} (h : step s = .next u) (k : Nat) :
    Host.Core.run Sys2Proof.core (k + 1) s = Host.Core.run Sys2Proof.core k u := by
  have stepped : Sys2Proof.core.step s = .next u := h
  simp only [Host.Core.run, stepped]

/-- One exchange while recovering: it completes, takes the request and counts DESYNC down. -/
theorem step_recovering_counts {s : State} {req : Frame} {rest : List (List Byte)} (booted : s.booted = true)
    (requests : s.requests = req.toList :: rest) (h : recovering s.desync = true) :
    ∃ u, step s = .next u ∧ u.desync.toNat = s.desync.toNat - 1 ∧ u.requests = rest ∧ BypassKeeps s u := by
  refine ⟨_, step_recovering booted requests h, ?_, ?_, ?_⟩
  · simpa using recovering_toNat_sub_one h
  · simp [requests]
  · constructor <;> simp

/-- As many exchanges as there are frames, at most as many as DESYNC counts: each takes one frame and counts one down. -/
theorem run_recovering (frames : List Frame) {s : State} {rest : List (List Byte)} (booted : s.booted = true)
    (requests : s.requests = frames.map (·.toList) ++ rest) (range : s.desync.toNat ≤ 4)
    (enough : frames.length ≤ s.desync.toNat) :
    ∃ t, Host.Core.run Sys2Proof.core frames.length s = .next t ∧
      t.desync.toNat = s.desync.toNat - frames.length ∧ t.requests = rest ∧ BypassKeeps s t := by
  induction frames generalizing s with
  | nil => exact ⟨s, rfl, rfl, requests, .refl s⟩
  | cons req frames ih =>
    rw [List.length_cons] at enough
    have recovers : recovering s.desync = true := by
      refine (recovering_iff s.desync).mpr ⟨fun zero => ?_, range⟩
      simp [zero] at enough
    obtain ⟨u, stepped, counted, taken, kept⟩ := step_recovering_counts booted requests recovers
    obtain ⟨t, ran, counts, left, keeps⟩ := ih (kept.booted.trans booted) taken (by omega) (by omega)
    refine ⟨t, (run_succ_of_step stepped frames.length).trans ran, ?_, left, kept.trans keeps⟩
    rw [counts, counted, List.length_cons]
    omega

/-- Settles O42: the run over the first `n` of the four frames; after all four DESYNC is 0, where a frame is dispatched. -/
theorem recoveryEndsAfterFourExchanges : Obligations.RecoveryEndsAfterFourExchanges := by
  intro s a b c d rest booted four requests n
  have desync : s.desync.toNat = 4 := by rw [four]; rfl
  have length : ([a, b, c, d].take n.val).length = n.val := by
    rw [List.length_take]
    exact Nat.min_eq_left (Nat.le_of_lt_succ n.isLt)
  have cut : s.requests =
      ([a, b, c, d].take n.val).map (·.toList) ++ (([a, b, c, d].drop n.val).map (·.toList) ++ rest) := by
    rw [← List.append_assoc, ← List.map_append, List.take_append_drop]
    exact requests
  obtain ⟨t, ran, counted, left, kept⟩ := run_recovering ([a, b, c, d].take n.val) booted cut (by omega) (by omega)
  rw [length] at ran counted
  rw [desync] at counted
  refine ⟨t, ran, counted, kept.pin, kept.table, kept.dev, kept.muxctl, kept.trace, ?_⟩
  rintro rfl
  have synchronized : t.desync = 0 := BitVec.eq_of_toNat_eq counted
  exact ⟨left, fun f => by rw [synchronized, decodeExchange_zero]⟩

end Sys2Proof.Machine
end

section
/-! The frame and its command (30_encoding.md): how the decoder reads a frame, row by row, and what the encoder puts
back. -/

namespace Sys2Proof.Machine

open Sys2Proof

/-! The fields of an encoded frame. -/

@[simp] theorem op0_mkFrame (b0 b1 : Byte) (pins : U16) (payload : Nat → Byte) :
    op0 (mkFrame b0 b1 pins payload) = b0 := by
  simp [op0, mkFrame_getElem]

@[simp] theorem op1_mkFrame (b0 b1 : Byte) (pins : U16) (payload : Nat → Byte) :
    op1 (mkFrame b0 b1 pins payload) = b1 := by
  simp [op1, mkFrame_getElem]

@[simp] theorem pinMask_mkFrame (b0 b1 : Byte) (pins : U16) (payload : Nat → Byte) :
    pinMask (mkFrame b0 b1 pins payload) = pins := by
  simp [pinMask, mkFrame_getElem, be16_hi_lo]

theorem mkFrame_payload (b0 b1 : Byte) (pins : U16) (payload : Nat → Byte) (k : Nat) (h : k < 36) (h4 : 4 ≤ k) :
    (mkFrame b0 b1 pins payload)[k] = payload (k - 4) := by
  rw [mkFrame_getElem, if_neg, if_neg, if_neg, if_neg] <;> omega

theorem vfPayload_even {v : List U16} {k : Nat} (h : k < v.length) : vfPayload v (2 * k) = hiByte v[k] := by
  simp [vfPayload, h]

theorem vfPayload_odd {v : List U16} {k : Nat} (h : k < v.length) : vfPayload v (2 * k + 1) = loByte v[k] := by
  simp [vfPayload, h, show (2 * k + 1) / 2 = k by omega]

theorem lbPayload_even {p : List LbPair} {k : Nat} (h : k < p.length) : lbPayload p (2 * k) = p[k].vb := by
  simp [lbPayload, h]

theorem lbPayload_odd {p : List LbPair} {k : Nat} (h : k < p.length) : lbPayload p (2 * k + 1) = p[k].led := by
  simp [lbPayload, h, show (2 * k + 1) / 2 = k by omega]

theorem rawField_mkFrame (b0 b1 : Byte) (pins : U16) (v : List U16) (k : Fin 16) (h : k.val < v.length) :
    rawField (mkFrame b0 b1 pins (vfPayload v)) k = v[k.val] := by
  rw [rawField, mkFrame_payload _ _ _ _ _ _ (by omega), mkFrame_payload _ _ _ _ _ _ (by omega),
    show 4 + 2 * k.val - 4 = 2 * k.val by omega, show 5 + 2 * k.val - 4 = 2 * k.val + 1 by omega,
    vfPayload_even h, vfPayload_odd h, be16_hi_lo]

theorem lbField_mkFrame (b0 b1 : Byte) (pins : U16) (p : List LbPair) (k : Fin 16) (h : k.val < p.length) :
    lbField (mkFrame b0 b1 pins (lbPayload p)) k = p[k.val] := by
  rw [lbField, mkFrame_payload _ _ _ _ _ _ (by omega), mkFrame_payload _ _ _ _ _ _ (by omega),
    show 4 + 2 * k.val - 4 = 2 * k.val by omega, show 5 + 2 * k.val - 4 = 2 * k.val + 1 by omega,
    lbPayload_even h, lbPayload_odd h]

@[simp] theorem vf16_mkFrame (b0 b1 : Byte) (pins : U16) (v : Vector U16 16) :
    vf16 (mkFrame b0 b1 pins (vfPayload v.toList)) = v := by
  refine Vector.ext fun k hk => ?_
  rw [vf16, Vector.getElem_ofFn, rawField_mkFrame _ _ _ _ ⟨k, hk⟩ (by simpa using hk)]
  simp

@[simp] theorem vf8_mkFrame (b0 b1 : Byte) (pins : U16) (v : Vector U16 8) :
    vf8 (mkFrame b0 b1 pins (vfPayload v.toList)) = v := by
  refine Vector.ext fun k hk => ?_
  rw [vf8, Vector.getElem_ofFn, rawField_mkFrame _ _ _ _ (Fin.castLE _ ⟨k, hk⟩) (by simpa using hk)]
  simp

@[simp] theorem lb16_mkFrame (b0 b1 : Byte) (pins : U16) (p : Vector LbPair 16) :
    lb16 (mkFrame b0 b1 pins (lbPayload p.toList)) = p := by
  refine Vector.ext fun k hk => ?_
  rw [lb16, Vector.getElem_ofFn, lbField_mkFrame _ _ _ _ ⟨k, hk⟩ (by simpa using hk)]
  simp

/-! The other way: the payload of the fields read from a frame is the frame's own bytes. -/

theorem vfPayload_ofFn {n : Nat} (hn : n ≤ 16) (f : Frame) (j : Nat) (h : j < 2 * n) :
    vfPayload (Vector.ofFn fun k : Fin n => rawField f (k.castLE hn)).toList j = f[4 + j] := by
  obtain ⟨k, rfl | rfl⟩ : ∃ k, j = 2 * k ∨ j = 2 * k + 1 := ⟨j / 2, by omega⟩
  · rw [vfPayload_even (by simp; omega)]
    simp [rawField, hiByte_be16]
  · rw [vfPayload_odd (by simp; omega)]
    simp [rawField, loByte_be16, show 5 + 2 * k = 4 + (2 * k + 1) by omega]

theorem vfPayload_vf16 (f : Frame) (j : Nat) (h : j < 32) : vfPayload (vf16 f).toList j = f[4 + j] :=
  vfPayload_ofFn (n := 16) le_rfl f j h

theorem vfPayload_vf8 (f : Frame) (j : Nat) (h : j < 16) : vfPayload (vf8 f).toList j = f[4 + j] :=
  vfPayload_ofFn (n := 8) (by decide) f j h

theorem lbPayload_lb16 (f : Frame) (j : Nat) (h : j < 32) : lbPayload (lb16 f).toList j = f[4 + j] := by
  obtain ⟨k, rfl | rfl⟩ : ∃ k, j = 2 * k ∨ j = 2 * k + 1 := ⟨j / 2, by omega⟩
  · rw [lbPayload_even (by simp; omega)]
    simp [lb16, lbField]
  · rw [lbPayload_odd (by simp; omega)]
    simp [lb16, lbField, show 5 + 2 * k = 4 + (2 * k + 1) by omega]

/-! The fields of frames that agree on the fields' bytes. -/

theorem pinMask_congr {f g : Frame} (h2 : f[2] = g[2]) (h3 : f[3] = g[3]) : pinMask f = pinMask g := by
  rw [pinMask, pinMask, h2, h3]

theorem vf8_congr {f g : Frame} (h : ∀ k : Fin 36, 4 ≤ k.val → k.val ≤ 19 → f[k] = g[k]) : vf8 f = vf8 g := by
  refine congrArg Vector.ofFn (funext fun k => ?_)
  exact congrArg₂ be16 (h ⟨4 + 2 * k.val, by omega⟩ (by simp) (by simp; omega))
    (h ⟨5 + 2 * k.val, by omega⟩ (by simp; omega) (by simp; omega))

theorem lb16_congr {f g : Frame} (h : ∀ k : Fin 36, 4 ≤ k.val → f[k] = g[k]) : lb16 f = lb16 g := by
  refine congrArg Vector.ofFn (funext fun p => ?_)
  exact congrArg₂ LbPair.mk (h ⟨4 + 2 * p.val, by omega⟩ (by simp)) (h ⟨5 + 2 * p.val, by omega⟩ (by simp; omega))

/-! The decoder, row by row. -/

/-- `DecodesTo f i`: row `i` of the table is the one that DISPATCH's tests of `OP0` and `OP1` select for `f`
(30_encoding.md R86, R88; 45_commands.md R181). `decodeFrame_eq_iff` ties it to the decoder. -/
inductive DecodesTo (f : Frame) : Instr → Prop where
  | allset (good : op0 f = 0xFF) (second : op1 f = 0xFF) : DecodesTo f (.allset (pinMask f) (vf16 f))
  | rescan (good : op0 f = 0xFF) (second : op1 f = 0xFE) : DecodesTo f .rescan
  | slab0set (good : op0 f = 0xFF) (second : op1 f = 0xFC) : DecodesTo f (.slab0set (pinMask f) (vf8 f))
  | slab1set (good : op0 f = 0xFF) (second : op1 f = 0xFD) : DecodesTo f (.slab1set (vf8 f))
  | lb1set (good : op0 f = 0xFF) (second : op1 f = 0xFB) : DecodesTo f (.lb1set (lb16 f))
  | lb0set (good : op0 f = 0xFF) (second : op1 f = 0xFA) : DecodesTo f (.lb0set (lb16 f))
  | nop2 (good : op0 f = 0xFF) (unnamed : op1 f ∉ namedSecondary) : DecodesTo f (.nop2 (op1 f))
  | desyncEnter (bad : op0 f ≠ 0xFF) : DecodesTo f (.desyncEnter (op0 f))

theorem decodesTo_decodeFrame (f : Frame) : DecodesTo f (decodeFrame f) := by
  by_cases good : op0 f = 0xFF
  case neg => exact decodeFrame_of_op0_ne good ▸ .desyncEnter good
  unfold decodeFrame
  rw [if_neg (not_not_intro good)]
  split_ifs with hFF hFE hFC hFD hFB hFA
  · exact .allset good hFF
  · exact .rescan good hFE
  · exact .slab0set good hFC
  · exact .slab1set good hFD
  · exact .lb1set good hFB
  · exact .lb0set good hFA
  · exact .nop2 good (by simpa [namedSecondary] using ⟨hFF, hFE, hFC, hFD, hFB, hFA⟩)

theorem DecodesTo.decodeFrame_eq {f : Frame} {i : Instr} (h : DecodesTo f i) : decodeFrame f = i := by
  cases h with
  | allset good second => simp [decodeFrame, good, second]
  | rescan good second => simp [decodeFrame, good, second]
  | slab0set good second => simp [decodeFrame, good, second]
  | slab1set good second => simp [decodeFrame, good, second]
  | lb1set good second => simp [decodeFrame, good, second]
  | lb0set good second => simp [decodeFrame, good, second]
  | nop2 good unnamed =>
    simp only [namedSecondary, List.mem_cons, not_or] at unnamed
    obtain ⟨hFF, hFE, hFC, hFD, hFB, hFA, -⟩ := unnamed
    rw [decodeFrame, if_neg (not_not_intro good), if_neg hFF, if_neg hFE, if_neg hFC, if_neg hFD,
      if_neg hFB, if_neg hFA]
  | desyncEnter bad => exact decodeFrame_of_op0_ne bad

theorem decodeFrame_eq_iff {f : Frame} {i : Instr} : decodeFrame f = i ↔ DecodesTo f i :=
  ⟨fun h => h ▸ decodesTo_decodeFrame f, DecodesTo.decodeFrame_eq⟩

theorem DecodesTo.wellFormed {f : Frame} {i : Instr} (h : DecodesTo f i) : i.wellFormed = true := by
  cases h with
  | nop2 good unnamed => simpa [Instr.wellFormed] using unnamed
  | desyncEnter bad => simpa [Instr.wellFormed] using bad
  | allset | rescan | slab0set | slab1set | lb1set | lb0set => rfl

/-! The statements about the decoder and the encoder. -/

theorem decodesTo_encode {i : Instr} {f : Frame} (wf : i.wellFormed = true) (h : encode i = some f) :
    DecodesTo f i := by
  cases i with
  | allset pins v =>
    obtain rfl := Option.some.inj h
    simpa using DecodesTo.allset (op0_mkFrame ..) (op1_mkFrame 0xFF 0xFF pins (vfPayload v.toList))
  | rescan =>
    obtain rfl := Option.some.inj h
    exact .rescan (op0_mkFrame ..) (op1_mkFrame ..)
  | slab0set pins v =>
    obtain rfl := Option.some.inj h
    simpa using DecodesTo.slab0set (op0_mkFrame ..) (op1_mkFrame 0xFF 0xFC pins (vfPayload v.toList))
  | slab1set v =>
    obtain rfl := Option.some.inj h
    simpa using DecodesTo.slab1set (op0_mkFrame ..) (op1_mkFrame 0xFF 0xFD 0 (vfPayload v.toList))
  | lb1set p =>
    obtain rfl := Option.some.inj h
    simpa using DecodesTo.lb1set (op0_mkFrame ..) (op1_mkFrame 0xFF 0xFB 0 (lbPayload p.toList))
  | lb0set p =>
    obtain rfl := Option.some.inj h
    simpa using DecodesTo.lb0set (op0_mkFrame ..) (op1_mkFrame 0xFF 0xFA 0 (lbPayload p.toList))
  | nop2 b =>
    obtain rfl := Option.some.inj h
    simpa using DecodesTo.nop2 (op0_mkFrame 0xFF b 0 noPayload) (by simpa [Instr.wellFormed] using wf)
  | desyncEnter b =>
    obtain rfl := Option.some.inj h
    simpa using DecodesTo.desyncEnter (f := mkFrame b 0 0 noPayload) (by simpa [Instr.wellFormed] using wf)
  | bypass => exact nomatch h

/-- Settles O1: the fields of the encoded frame are the operands, and its first two bytes select the command's row. -/
theorem decodeOfEncodeIsTheInstruction : Obligations.DecodeOfEncodeIsTheInstruction :=
  fun _ _ wf h => (decodesTo_encode wf h).decodeFrame_eq

/-- The row of a frame whose first two bytes are those of a command's encoding. -/
theorem firstRow_of_encode {f : Frame} {i : Instr} {b0 b1 : Byte} {pins : U16} {payload : Nat → Byte}
    (row : Laws.RowOf.Statement i) (wf : i.wellFormed = true) (encoded : encode i = some (mkFrame b0 b1 pins payload))
    (h0 : op0 f = b0) (h1 : op1 f = b1) : firstRow (opWord f) = some i.mnemonic := by
  rw [opWord, h0, h1, ← Laws.opWord_mkFrame b0 b1 pins payload]
  exact row wf _ encoded

/-- Settles O3: for each way DISPATCH can take, the row of the opcode table that comes first. -/
theorem decoderFollowsTheOpcodeTable : Obligations.DecoderFollowsTheOpcodeTable := by
  intro f
  have row := decodesTo_decodeFrame f
  generalize decodeFrame f = i at row ⊢
  have wf := row.wellFormed
  cases row with
  | allset good second => exact firstRow_of_encode (Laws.RowOf.allset _ _) wf rfl good second
  | rescan good second => exact firstRow_of_encode Laws.RowOf.rescan wf rfl good second
  | slab0set good second => exact firstRow_of_encode (Laws.RowOf.slab0set _ _) wf rfl good second
  | slab1set good second => exact firstRow_of_encode (Laws.RowOf.slab1set _) wf rfl good second
  | lb1set good second => exact firstRow_of_encode (Laws.RowOf.lb1set _) wf rfl good second
  | lb0set good second => exact firstRow_of_encode (Laws.RowOf.lb0set _) wf rfl good second
  | nop2 good unnamed => exact firstRow_of_encode (Laws.RowOf.nop2 _) wf rfl good rfl
  | desyncEnter bad => exact Laws.firstRow_desync _ _ wf

/-- Settles O5: the other frame has the same first bytes, hence the same row, and the same operands. -/
theorem decodingIgnoresFieldsTheCommandDoesNotRead : Obligations.DecodingIgnoresFieldsTheCommandDoesNotRead := by
  intro f g agree
  refine DecodesTo.decodeFrame_eq ?_
  have row := decodesTo_decodeFrame f
  generalize decodeFrame f = i at row agree ⊢
  have first (reads : readsByte i 0 = true) : op0 f = op0 g := agree 0 reads
  have next (reads : readsByte i 1 = true) : op1 f = op1 g := agree 1 reads
  cases row with
  | allset good second =>
    obtain rfl : f = g := Vector.ext fun k hk => agree ⟨k, hk⟩ rfl
    exact .allset good second
  | rescan good second => exact .rescan (first rfl ▸ good) (next rfl ▸ second)
  | slab0set good second =>
    rw [pinMask_congr (agree 2 rfl) (agree 3 rfl), vf8_congr fun k _ hk => agree k (decide_eq_true hk)]
    exact .slab0set (first rfl ▸ good) (next rfl ▸ second)
  | slab1set good second =>
    rw [vf8_congr fun k h4 hk => agree k (by simp [readsByte, h4, hk])]
    exact .slab1set (first rfl ▸ good) (next rfl ▸ second)
  | lb1set good second =>
    rw [lb16_congr fun k h4 => agree k (by simp [readsByte, h4])]
    exact .lb1set (first rfl ▸ good) (next rfl ▸ second)
  | lb0set good second =>
    rw [lb16_congr fun k h4 => agree k (by simp [readsByte, h4])]
    exact .lb0set (first rfl ▸ good) (next rfl ▸ second)
  | nop2 good unnamed =>
    rw [next rfl] at unnamed ⊢
    exact .nop2 (first rfl ▸ good) unnamed
  | desyncEnter bad =>
    rw [first rfl] at bad ⊢
    exact .desyncEnter bad

/-- A frame rebuilt from another's `OP0` and `OP1` has its first two bytes. -/
theorem mkFrame_opcodes {f : Frame} {b0 b1 : Byte} (h0 : op0 f = b0) (h1 : op1 f = b1) (pins : U16)
    (payload : Nat → Byte) (k : Nat) (hk : k ≤ 1) : (mkFrame b0 b1 pins payload)[k] = f[k] := by
  obtain rfl | rfl : k = 0 ∨ k = 1 := by omega
  · simpa [mkFrame_getElem, op0] using h0.symm
  · simpa [mkFrame_getElem, op1] using h1.symm

theorem mkFrame_pinMask (f : Frame) (b0 b1 : Byte) (payload : Nat → Byte) (k : Nat) (h2 : 2 ≤ k) (h3 : k ≤ 3) :
    (mkFrame b0 b1 (pinMask f) payload)[k] = f[k] := by
  obtain rfl | rfl : k = 2 ∨ k = 3 := by omega
  · simp [mkFrame_getElem, pinMask, hiByte_be16]
  · simp [mkFrame_getElem, pinMask, loByte_be16]

theorem mkFrame_payload_eq {f : Frame} {payload : Nat → Byte} {n : Nat} (b0 b1 : Byte) (pins : U16)
    (same : ∀ j (_ : j < n) (h36 : 4 + j < 36), payload j = f[4 + j]) (k : Nat) (hk : k < 36) (h4 : 4 ≤ k)
    (hn : k < 4 + n) : (mkFrame b0 b1 pins payload)[k] = f[k] := by
  rw [mkFrame_payload _ _ _ _ _ hk h4, same (k - 4) (by omega) (by omega)]
  simp [show 4 + (k - 4) = k by omega]

/-- Settles O6: opcode bytes, pin mask and payload are each written back where they stood. -/
theorem encodingKeepsEveryByteTheCommandReads : Obligations.EncodingKeepsEveryByteTheCommandReads := by
  intro f g encoded k reads
  have row := decodesTo_decodeFrame f
  generalize decodeFrame f = i at row encoded reads
  change g[k.val] = f[k.val]
  cases row with
  | allset good second =>
    obtain rfl := Option.some.inj encoded
    obtain low | mid | high : k.val ≤ 1 ∨ (2 ≤ k.val ∧ k.val ≤ 3) ∨ 4 ≤ k.val := by omega
    · exact mkFrame_opcodes good second _ _ _ low
    · exact mkFrame_pinMask f _ _ _ _ mid.1 mid.2
    · exact mkFrame_payload_eq _ _ _ (fun j hj _ => vfPayload_vf16 f j hj) _ k.isLt high (by omega)
  | rescan good second =>
    obtain rfl := Option.some.inj encoded
    exact mkFrame_opcodes good second _ _ _ (by simpa [readsByte] using reads)
  | slab0set good second =>
    obtain rfl := Option.some.inj encoded
    have upTo : k.val ≤ 19 := by simpa [readsByte] using reads
    obtain low | mid | high : k.val ≤ 1 ∨ (2 ≤ k.val ∧ k.val ≤ 3) ∨ 4 ≤ k.val := by omega
    · exact mkFrame_opcodes good second _ _ _ low
    · exact mkFrame_pinMask f _ _ _ _ mid.1 mid.2
    · exact mkFrame_payload_eq _ _ _ (fun j hj _ => vfPayload_vf8 f j hj) _ k.isLt high (by omega)
  | slab1set good second =>
    obtain rfl := Option.some.inj encoded
    obtain low | ⟨high, upTo⟩ : k.val ≤ 1 ∨ 4 ≤ k.val ∧ k.val ≤ 19 := by simpa [readsByte] using reads
    · exact mkFrame_opcodes good second _ _ _ low
    · exact mkFrame_payload_eq _ _ _ (fun j hj _ => vfPayload_vf8 f j hj) _ k.isLt high (by omega)
  | lb1set good second =>
    obtain rfl := Option.some.inj encoded
    obtain low | high : k.val ≤ 1 ∨ 4 ≤ k.val := by simpa [readsByte] using reads
    · exact mkFrame_opcodes good second _ _ _ low
    · exact mkFrame_payload_eq _ _ _ (fun j hj _ => lbPayload_lb16 f j hj) _ k.isLt high (by omega)
  | lb0set good second =>
    obtain rfl := Option.some.inj encoded
    obtain low | high : k.val ≤ 1 ∨ 4 ≤ k.val := by simpa [readsByte] using reads
    · exact mkFrame_opcodes good second _ _ _ low
    · exact mkFrame_payload_eq _ _ _ (fun j hj _ => lbPayload_lb16 f j hj) _ k.isLt high (by omega)
  | nop2 good unnamed =>
    obtain rfl := Option.some.inj encoded
    exact mkFrame_opcodes good rfl _ _ _ (by simpa [readsByte] using reads)
  | desyncEnter bad =>
    obtain rfl := Option.some.inj encoded
    have zero : k.val = 0 := by simpa [readsByte] using reads
    simp [zero, mkFrame_getElem, op0]

/-- Settles O2, command by command. -/
theorem onlyBypassHasNoEncoding : Obligations.OnlyBypassHasNoEncoding := by
  intro i
  cases i <;> simp [encode]

/-- Settles O4: a bypass is well formed, and so is the command of every row. -/
theorem everyFrameDecodesToAWellFormedCommand : Obligations.EveryFrameDecodesToAWellFormedCommand := by
  intro d f
  by_cases synchronized : d = 0
  · subst synchronized
    exact (decodesTo_decodeFrame f).wellFormed
  · rw [decodeExchange_of_ne_zero synchronized]
    rfl

/-- Settles O8: the four frames are evaluated. -/
theorem sampleFramesDecodeAsTheSpecSays : Obligations.SampleFramesDecodeAsTheSpecSays :=
  ⟨by rfl, by rfl, by rfl, by rfl⟩

theorem decode_of_length {bytes : List Byte} (h : bytes.length = 36) :
    ∃ f, frameOfBytes bytes = some f ∧ decode bytes = .ok (decodeFrame f) := by
  obtain ⟨f, frame⟩ := frameOfBytes_some h
  exact ⟨f, frame, by rw [decode, frame]⟩

theorem decode_of_length_ne {bytes : List Byte} (h : bytes.length ≠ 36) :
    decode bytes = .error (.frameLength bytes.length) := by
  rw [decode, frameOfBytes_none h]

/-- Settles O9: the two lengths' equations of the decoder. -/
theorem onlyThirtySixByteTransfersDecode : Obligations.OnlyThirtySixByteTransfersDecode := by
  refine fun bytes => ⟨fun whole => ?_, decode_of_length_ne⟩
  obtain ⟨f, -, decoded⟩ := decode_of_length whole
  exact ⟨_, decoded⟩

/-- Settles O10: both fields are `be16` of their two bytes. -/
theorem sixteenBitFieldsAreBigEndian : Obligations.SixteenBitFieldsAreBigEndian :=
  fun _ => ⟨be16_toNat _ _, fun _ => be16_toNat _ _⟩

end Sys2Proof.Machine
end

section
/-! The values that a device may be sent (42_voltage_encode.md R136, R138). -/

namespace Sys2Proof.Machine

open Sys2Proof

theorem clampNat_le (n : Nat) : clampNat n ≤ 4000 := Nat.min_le_right _ _

theorem clampNat_mod (n : Nat) : clampNat (n % 4096) = clampNat n := by
  rw [clampNat, Nat.mod_mod, clampNat]

theorem clampNat_clampNat (n : Nat) : clampNat (clampNat n) = clampNat n := by
  have := clampNat_le n
  rw [clampNat_of_le (by omega), Nat.min_eq_left this]

/-- Settles O11: `clamp12` is `clampNat` on numbers, whose properties these are. -/
theorem clampIsBoundedIdempotentAndMonotoneBelow4096 : Obligations.ClampIsBoundedIdempotentAndMonotoneBelow4096 := by
  refine ⟨fun raw => ?bounded, fun raw => BitVec.eq_of_toNat_eq ?masked, fun raw => BitVec.eq_of_toNat_eq ?idempotent,
    fun x y le small => ?monotone⟩
  case bounded => exact clamp12_toNat raw ▸ clampNat_le _
  case masked =>
    have fits : (BitVec.ofNat 16 (raw.toNat % 4096)).toNat = raw.toNat % 4096 := by
      rw [BitVec.toNat_ofNat]
      omega
    rw [clamp12_toNat, clamp12_toNat, fits, clampNat_mod]
  case idempotent =>
    have kept : ((clamp12 raw).zeroExtend 16).toNat = clampNat raw.toNat := by
      have := clampNat_le raw.toNat
      rw [BitVec.toNat_setWidth, clamp12_toNat]
      omega
    rw [clamp12_toNat, clamp12_toNat, kept, clampNat_clampNat]
  case monotone =>
    rw [clamp12_toNat, clamp12_toNat, clampNat_of_le (by omega), clampNat_of_le (by omega)]
    omega

/-- The wiper byte of every 12-bit value fits a byte, so it is the inverted number itself. -/
theorem potByte_toNat {n : Nat} (h : n < 4096) : (potByte n).toNat = 128 - n / 32 := by
  rw [potByte, BitVec.toNat_ofNat]
  omega

theorem potByte_range {n : Nat} (h : n ≤ 4000) : 3 ≤ (potByte n).toNat ∧ (potByte n).toNat ≤ 128 := by
  rw [potByte_toNat (by omega)]
  omega

/-- Settles O12: the wiper byte is 128 less the value's top seven bits. -/
theorem wiperByteIsInvertedAndInRange : Obligations.WiperByteIsInvertedAndInRange := by
  refine ⟨fun raw => ?_, fun v w le => ?_⟩
  · rw [encPot_eq, clamp12_toNat]
    exact potByte_range (clampNat_le _)
  · rw [encPot_eq, encPot_eq, potByte_toNat w.isLt, potByte_toNat v.isLt]
    omega

end Sys2Proof.Machine
end

section
/-! Loops by what their turns do to one observation, and PINAPPLY's loop (43_pin_demux.md R155). -/

namespace Sys2Proof.Machine

open Sys2Proof

/-- What some turn brings about, and every turn keeps, holds after the loop; `I` is what the turns may rely on. -/
theorem forFin_reaches {σ : Type} {I P : σ → Prop} {n : Nat} {body : Fin n → σ → σ}
    (inv : ∀ k s, I s → I (body k s)) (keeps : ∀ k s, I s → P s → P (body k s)) (k : Fin n)
    (hits : ∀ s, I s → P (body k s)) (s : σ) (hs : I s) : P (forFin n body s) := by
  induction n generalizing s with
  | zero => exact k.elim0
  | succ n ih =>
    have inv' := fun j => inv (Fin.succ j)
    have keeps' := fun j => keeps (Fin.succ j)
    cases k using Fin.cases with
    | zero =>
      have kept := forFin_keeps (P := fun s => I s ∧ P s) n (fun j => body j.succ)
        (fun j s h => ⟨inv' j s h.1, keeps' j s h.1 h.2⟩) (body 0 s) ⟨inv 0 s hs, hits s hs⟩
      exact kept.2
    | succ k => exact ih inv' keeps' k hits (body 0 s) (inv 0 s hs)

/-- One turn of the source's loop writes one bit, which it takes from the same place of the mask. -/
theorem getLsbD_setPinMsbFirst (mask : U16) (i : Fin 16) (pins : U16) {j : Nat} (hj : j < 16) :
    (setPinMsbFirst mask i pins).getLsbD j = if j = 15 - i.val then mask.getLsbD j else pins.getLsbD j := by
  have written : ((1 <<< (15 - i.val) : Nat) : U16).getLsbD j = decide (15 - i.val = j) := by
    rw [BitVec.natCast_eq_ofNat, BitVec.getLsbD_ofNat, Nat.one_shiftLeft, Nat.testBit_two_pow]
    simp [hj]
  have source : mask.getMsbD i.val = mask.getLsbD (15 - i.val) := by simp [BitVec.getMsbD]
  unfold setPinMsbFirst
  dsimp only
  rw [source]
  split
  case isTrue set =>
    rw [BitVec.getLsbD_or, written]
    by_cases h : j = 15 - i.val
    · simp [h, set]
    · simp [h, Ne.symm h]
  case isFalse clear =>
    rw [BitVec.getLsbD_and, BitVec.getLsbD_not, written]
    by_cases h : j = 15 - i.val
    · simp [h, clear]
    · simp [h, Ne.symm h, hj]

/-- Settles O16: bit `j` of the mask is written in turn `15 - j` of the source's loop and kept by the other turns. -/
theorem pinsTakeTheMaskBitForBit : Obligations.PinsTakeTheMaskBitForBit := by
  refine fun mask s => ⟨pinApply_pin mask s, fun j => by rw [pinApply_pin], rfl, fun before => ?_⟩
  refine BitVec.eq_of_getLsbD_eq fun j hj => ?_
  refine forFin_reaches (I := fun _ => True) (P := fun pins : U16 => pins.getLsbD j = mask.getLsbD j)
    (fun _ _ _ => trivial) (fun k pins _ held => ?_) ⟨15 - j, by omega⟩ (fun pins _ => ?_) before trivial
  · rw [getLsbD_setPinMsbFirst _ _ _ hj, held, ite_self]
  · rw [getLsbD_setPinMsbFirst _ _ _ hj, if_pos (by simp; omega)]

end Sys2Proof.Machine
end

section
/-! The bus in detail: what one write and one SELECT leave in the multiplexers (20_memory.md R54, R66;
40_channel_select.md R110 to R114). -/

namespace Sys2Proof.Machine

open Sys2Proof

theorem muxctlAfter_nil (cfg : Cfg) (ctl : Vector Byte 2) (a : BusAddr) : muxctlAfter cfg ctl a [] = ctl := by
  simp [muxctlAfter, ctlAfter]

theorem devAfter_nil (cfg : Cfg) (bench : Option Topology) (ctl : Vector Byte 2) (d : DevRegs) (a : BusAddr) :
    devAfter cfg bench ctl d a [] = d := by
  simp [devAfter]

/-- Settles O18: an unacknowledged write is no write, and an empty one stores nothing wherever it goes. -/
theorem failedOrEmptyWriteChangesNoDevice : Obligations.FailedOrEmptyWriteChangesNoDevice := by
  rintro a bytes s (failed | rfl)
  · rw [busWrite_ack] at failed
    simp [failed]
  · simp [muxctlAfter_nil, devAfter_nil]

theorem chanByte_of_toNat {chan : Byte} (h : chan.toNat < 16) : chanByte ⟨chan.toNat, h⟩ = chan :=
  BitVec.eq_of_toNat_eq (chanByte_toNat _)

theorem select_of_out_of_range (cfg : Cfg) {chan : Byte} (h : 16 ≤ chan.toNat) (s : State) : select cfg chan s = s :=
  if_pos (show chan > 15 by rw [GT.gt, BitVec.lt_def]; exact h)

/-- Settles O19: in range the select of a channel, above it the guard. -/
theorem selectMakesThreeWritesOrNone : Obligations.SelectMakesThreeWritesOrNone := by
  refine fun chan s => ⟨fun inRange => ?_, fun above => select_of_out_of_range _ above s⟩
  have traffic := select_traffic Config.cfg ⟨chan.toNat, inRange⟩ s
  rwa [chanByte_of_toNat inRange] at traffic

/-! The multiplexers. -/

theorem muxAddr_ne_of_valid {cfg : Cfg} (h : cfg.Valid) : cfg.muxAddr0 ≠ cfg.muxAddr1 := by
  obtain ⟨distinct, -, -⟩ := h
  simp only [Cfg.addresses, List.nodup_cons, List.mem_cons, not_or] at distinct
  exact distinct.1.1

@[simp] theorem isMuxAddr_muxAddr (cfg : Cfg) (m : Fin 2) : isMuxAddr cfg (muxAddr cfg m) = true := by
  fin_cases m <;> simp [isMuxAddr, muxAddr]

theorem muxctlAfter_muxAddr {cfg : Cfg} (h : cfg.Valid) (ctl : Vector Byte 2) (m : Fin 2) (bytes : List Byte) :
    muxctlAfter cfg ctl (muxAddr cfg m) bytes = ctl.set m (ctlAfter ctl[m] bytes) := by
  have distinct := (muxAddr_ne_of_valid h).symm
  fin_cases m
  · simp [muxctlAfter, muxAddr]
  · simp [muxctlAfter, muxAddr, distinct]

theorem muxctlAfter_of_not_mux {cfg : Cfg} {a : BusAddr} (h : isMuxAddr cfg a = false) (ctl : Vector Byte 2)
    (bytes : List Byte) : muxctlAfter cfg ctl a bytes = ctl := by
  simp only [isMuxAddr, Bool.or_eq_false_iff, beq_eq_false_iff_ne] at h
  simp [muxctlAfter, h]

/-- A device address is no multiplexer's (R7). -/
theorem isMuxAddr_of_device {cfg : Cfg} (h : cfg.Valid) {a : BusAddr} (ha : a = cfg.dacA ∨ a = cfg.dacB ∨ a = cfg.pot) :
    isMuxAddr cfg a = false := by
  obtain ⟨distinct, -, -⟩ := h
  simp only [Cfg.addresses, List.nodup_cons, List.mem_cons, not_or] at distinct
  obtain ⟨⟨-, a0, b0, p0, -⟩, ⟨a1, b1, p1, -⟩, -⟩ := distinct
  simp only [isMuxAddr, Bool.or_eq_false_iff, beq_eq_false_iff_ne]
  obtain rfl | rfl | rfl := ha
  · exact ⟨Ne.symm a0, Ne.symm a1⟩
  · exact ⟨Ne.symm b0, Ne.symm b1⟩
  · exact ⟨Ne.symm p0, Ne.symm p1⟩

theorem devAfter_of_mux {cfg : Cfg} {a : BusAddr} (h : isMuxAddr cfg a = true) (bench : Option Topology)
    (ctl : Vector Byte 2) (d : DevRegs) (bytes : List Byte) : devAfter cfg bench ctl d a bytes = d := by
  simp [devAfter, h]

/-- A write to a multiplexer reaches no device. -/
theorem busWrite_mux_dev {cfg : Cfg} {a : BusAddr} (h : isMuxAddr cfg a = true) (bytes : List Byte) (s : State) :
    (busWrite cfg a bytes s).2.dev = s.dev := by
  rw [busWrite_dev, devAfter_of_mux h, ite_self]

/-- A reported write differs from the write in the diagnostics alone. -/
theorem busWriteReport_eq (cfg : Cfg) (a : BusAddr) (bytes : List Byte) (d : Diag) (s : State) :
    busWriteReport cfg a bytes d s =
      { (busWrite cfg a bytes s).2 with diags := (busWriteReport cfg a bytes d s).diags } := by
  unfold busWriteReport
  dsimp only
  split <;> rfl

@[simp] theorem busWriteReport_muxctl (cfg : Cfg) (a : BusAddr) (bytes : List Byte) (d : Diag) (s : State) :
    (busWriteReport cfg a bytes d s).muxctl = (busWrite cfg a bytes s).2.muxctl := by rw [busWriteReport_eq]
@[simp] theorem busWriteReport_dev (cfg : Cfg) (a : BusAddr) (bytes : List Byte) (d : Diag) (s : State) :
    (busWriteReport cfg a bytes d s).dev = (busWrite cfg a bytes s).2.dev := by rw [busWriteReport_eq]
@[simp] theorem busWriteReport_answers (cfg : Cfg) (a : BusAddr) (bytes : List Byte) (d : Diag) (s : State) :
    (busWriteReport cfg a bytes d s).answers = s.answers.tail := by rw [busWriteReport_eq, busWrite_answers]
@[simp] theorem busWriteReport_bench (cfg : Cfg) (a : BusAddr) (bytes : List Byte) (d : Diag) (s : State) :
    (busWriteReport cfg a bytes d s).bench = s.bench := by rw [busWriteReport_eq, busWrite_bench]
@[simp] theorem busWriteReport_trace (cfg : Cfg) (a : BusAddr) (bytes : List Byte) (d : Diag) (s : State) :
    (busWriteReport cfg a bytes d s).trace = s.trace ++ [.bus ⟨a, bytes, ackOf cfg s a bytes⟩] := by
  rw [busWriteReport_eq, busWrite_trace]

/-! SELECT. -/

/-- The first write of a select (R110): the primary multiplexer's reset. -/
def selectFirst (cfg : Cfg) (s : State) : State :=
  busWriteReport cfg (muxAddr cfg 0) [0x00] (.muxWriteFailed (muxAddr cfg 0)) s

/-- The first two writes of a select: both multiplexers' resets. -/
def selectReset (cfg : Cfg) (s : State) : State :=
  busWriteReport cfg (muxAddr cfg 1) [0x00] (.muxWriteFailed (muxAddr cfg 1)) (selectFirst cfg s)

theorem select_chanByte (cfg : Cfg) (c : Channel) (s : State) :
    select cfg (chanByte c) s =
      busWriteReport cfg (muxAddr cfg (muxOf (chanByte c))) [selBit (chanByte c)]
        (.muxWriteFailed (muxAddr cfg (muxOf (chanByte c)))) (selectReset cfg s) :=
  if_neg (chanByte_not_gt c)

/-- The control bytes that route one channel. -/
def ctlRouting (c : Channel) : Vector Byte 2 :=
  (Vector.replicate 2 0x00).set (muxOf (chanByte c)) (selBit (chanByte c))

theorem routed_ctlRouting : ∀ c d : Channel, routed (ctlRouting c) d = true ↔ d = c := by decide

theorem set_both (ctl : Vector Byte 2) (x : Byte) : (ctl.set 0 x).set 1 x = Vector.replicate 2 x := by
  refine Vector.ext fun k hk => ?_
  obtain rfl | rfl : k = 0 ∨ k = 1 := by omega
  · simp
  · simp

/-- A multiplexer that acknowledges one byte holds it. -/
theorem busWriteReport_mux_muxctl {cfg : Cfg} (h : cfg.Valid) (m : Fin 2) (x : Byte) (d : Diag) (s : State)
    (ack : ackOf cfg s (muxAddr cfg m) [x] = true) :
    (busWriteReport cfg (muxAddr cfg m) [x] d s).muxctl = s.muxctl.set m x := by
  simp [ack, muxctlAfter_muxAddr h, ctlAfter]

/-- The three writes acknowledged, the control bytes route the channel alone, whatever they were. -/
theorem select_muxctl {cfg : Cfg} (h : cfg.Valid) (c : Channel) (s : State)
    (ack0 : ackOf cfg s (muxAddr cfg 0) [0x00] = true)
    (ack1 : ackOf cfg (selectFirst cfg s) (muxAddr cfg 1) [0x00] = true)
    (ack2 : ackOf cfg (selectReset cfg s) (muxAddr cfg (muxOf (chanByte c))) [selBit (chanByte c)] = true) :
    (select cfg (chanByte c) s).muxctl = ctlRouting c := by
  rw [select_chanByte, busWriteReport_mux_muxctl h _ _ _ _ ack2, selectReset, busWriteReport_mux_muxctl h _ _ _ _ ack1,
    selectFirst, busWriteReport_mux_muxctl h _ _ _ _ ack0, ctlRouting]
  exact congrArg (fun ctl : Vector Byte 2 => ctl.set (muxOf (chanByte c)) (selBit (chanByte c)))
    (set_both s.muxctl 0x00)

theorem select_trace (cfg : Cfg) (c : Channel) (s : State) :
    (select cfg (chanByte c) s).trace = s.trace ++
      [BusEvent.mk (muxAddr cfg 0) [0x00] (ackOf cfg s (muxAddr cfg 0) [0x00]),
      ⟨muxAddr cfg 1, [0x00], ackOf cfg (selectFirst cfg s) (muxAddr cfg 1) [0x00]⟩,
      ⟨muxAddr cfg (muxOf (chanByte c)), [selBit (chanByte c)],
        ackOf cfg (selectReset cfg s) (muxAddr cfg (muxOf (chanByte c))) [selBit (chanByte c)]⟩].map Event.bus := by
  rw [select_chanByte, busWriteReport_trace, selectReset, busWriteReport_trace, selectFirst, busWriteReport_trace]
  simp

/-- Settles O20: the recorded acknowledge bits are those of the three writes. -/
theorem acknowledgedSelectRoutesItsChannelAlone : Obligations.AcknowledgedSelectRoutesItsChannelAlone := by
  intro c s evs trace acked d
  rw [select_trace] at trace
  have events := (List.map_injective_iff.mpr fun _ _ => Event.bus.inj) (List.append_cancel_left trace)
  subst events
  simp only [List.forall_mem_cons] at acked
  obtain ⟨ack0, ack1, ack2, -⟩ := acked
  rw [select_muxctl Config.cfg_valid c s ack0 ack1 ack2, routed_ctlRouting]

/-- A select reaches no device. -/
theorem select_dev (cfg : Cfg) (c : Channel) (s : State) : (select cfg (chanByte c) s).dev = s.dev := by
  simp only [select_chanByte, selectReset, selectFirst, busWriteReport_dev, busWrite_mux_dev (isMuxAddr_muxAddr cfg _)]

/-! The test environment. -/

/-- The acknowledge bits come from the test environment with topology `topo` (R66, R67). -/
structure OnBench (topo : Topology) (s : State) : Prop where
  bench : s.bench = some topo
  answers : s.answers = []

theorem OnBench.busWrite {topo : Topology} {s : State} (h : OnBench topo s) (cfg : Cfg) (a : BusAddr)
    (bytes : List Byte) : OnBench topo (busWrite cfg a bytes s).2 :=
  ⟨h.bench, by rw [busWrite_answers, h.answers]; rfl⟩

theorem OnBench.busWriteReport {topo : Topology} {s : State} (h : OnBench topo s) (cfg : Cfg) (a : BusAddr)
    (bytes : List Byte) (d : Diag) : OnBench topo (busWriteReport cfg a bytes d s) :=
  ⟨by rw [busWriteReport_bench, h.bench], by rw [busWriteReport_answers, h.answers]; rfl⟩

theorem OnBench.ackOf_eq {topo : Topology} {s : State} (h : OnBench topo s) (cfg : Cfg) (a : BusAddr)
    (bytes : List Byte) : ackOf cfg s a bytes = benchAck cfg topo s a :=
  ackOf_bench h.bench h.answers a bytes

theorem OnBench.ackOf_muxAddr {topo : Topology} {s : State} (h : OnBench topo s) (cfg : Cfg) (m : Fin 2)
    (bytes : List Byte) : ackOf cfg s (muxAddr cfg m) bytes = true := by
  rw [h.ackOf_eq, benchAck_mux topo s (isMuxAddr_muxAddr cfg m)]

theorem OnBench.select {topo : Topology} {s : State} (h : OnBench topo s) (cfg : Cfg) (c : Channel) :
    OnBench topo (select cfg (chanByte c) s) :=
  select_chanByte cfg c s ▸ ((h.busWriteReport ..).busWriteReport ..).busWriteReport ..

/-- In the test environment a select always routes its channel alone. -/
theorem OnBench.select_muxctl {topo : Topology} {s : State} (h : OnBench topo s) {cfg : Cfg} (valid : cfg.Valid)
    (c : Channel) : (Machine.select cfg (chanByte c) s).muxctl = ctlRouting c :=
  Machine.select_muxctl valid c s (h.ackOf_muxAddr ..) ((h.busWriteReport ..).ackOf_muxAddr ..)
    (((h.busWriteReport ..).busWriteReport ..).ackOf_muxAddr ..)

theorem routed_zero : ∀ c : Channel, routed (Vector.replicate 2 0x00) c = false := by decide

/-- Settles O54: the environment's beginning, and one write to a multiplexer by the length of its data. -/
theorem testMultiplexersAcknowledgeAndHoldOneByte : Obligations.TestMultiplexersAcknowledgeAndHoldOneByte := by
  refine ⟨fun topo s => ⟨rfl, routed_zero⟩, fun s topo m bytes bench answers => ?_⟩
  have acked := (OnBench.mk bench answers).ackOf_muxAddr Config.cfg m bytes
  refine ⟨acked, ?_, ?_⟩
  · rintro rfl
    rw [busWrite_muxctl, muxctlAfter_nil, ite_self]
  · rintro x rfl
    rw [busWrite_muxctl, acked, if_pos rfl, muxctlAfter_muxAddr Config.cfg_valid, ctlAfter]

end Sys2Proof.Machine
end

section
/-! What each command can do, said once: the registers it changes (45_commands.md R193) and what it puts on the bus and
the pins. The statements about single commands, and about all of them, are read off this. -/

namespace Sys2Proof.Machine

open Sys2Proof

/-- The registers after a command other than RESCAN. `exec_effect` ties it to `exec`. -/
def registersAfter (cfg : Cfg) (i : Instr) (s : State) : State :=
  match i with
  | .allset pins _ => { s with pin := pins }
  | .slab0set pins _ => { s with pin := pins }
  | .desyncEnter _ => { s with desync := 4, pin := cfg.safePinMask }
  | .bypass => leaveRecoveryStep s
  | .rescan => s
  | .slab1set _ => s
  | .lb1set _ => s
  | .lb0set _ => s
  | .nop2 _ => s

/-- What a command other than RESCAN does on the board, from the table it finds. `exec_effect` ties it to `exec`. -/
def commandActs (cfg : Cfg) (i : Instr) (t : Table) : List Act :=
  match i with
  | .allset pins v => .pins pins :: vsetActs cfg t 0 16 (by decide) (fun k => v[k])
  | .slab0set pins v => .pins pins :: vsetActs cfg t 0 8 (by decide) (fun k => v[k])
  | .slab1set v => vsetActs cfg t 8 8 (by decide) (fun k => v[k])
  | .lb1set p => lbsetActs cfg t 1 p
  | .lb0set p => lbsetActs cfg t 0 p
  | .desyncEnter _ => .pins cfg.safePinMask :: vsetActs cfg t 0 16 (by decide) (fun k => cfg.safeRaw[k])
  | .rescan => []
  | .nop2 _ => []
  | .bypass => []

theorem pinApply_busOnly (mask : U16) (s : State) : BusOnly { s with pin := mask } (pinApply mask s) :=
  ⟨rfl, rfl, rfl, rfl, rfl, rfl, rfl, rfl, rfl⟩

/-- The pins, then the voltages. -/
theorem vset_pinApply_effect (cfg : Cfg) (pins : U16) (lo n : Nat) (h : lo + n ≤ 16) (src : Fin n → U16) (s : State) :
    BusOnly { s with pin := pins } (vset cfg lo n h src (pinApply pins s)) ∧
      Issues s (vset cfg lo n h src (pinApply pins s)) (.pins pins :: vsetActs cfg s.table lo n h src) := by
  obtain ⟨kept, issued⟩ := vset_traffic cfg lo n h src (pinApply pins s)
  exact ⟨(pinApply_busOnly pins s).trans kept, (pinApply_issues pins s).trans issued⟩

/-- Every command but RESCAN changes its registers, does its actions, and nothing else of the block changes. -/
theorem exec_effect {i : Instr} {s t : State} (notScan : i ≠ .rescan) (ran : exec i s = .next t) :
    BusOnly (registersAfter Config.cfg i s) t ∧ Issues s t (commandActs Config.cfg i s.table) := by
  cases i with
  | allset pins v => exact next_inj ran ▸ vset_pinApply_effect Config.cfg pins 0 16 _ _ s
  | rescan => exact absurd rfl notScan
  | slab0set pins v => exact next_inj ran ▸ vset_pinApply_effect Config.cfg pins 0 8 _ _ s
  | slab1set v => exact next_inj ran ▸ vset_traffic Config.cfg 8 8 _ _ s
  | lb1set p => exact next_inj ran ▸ lbset_traffic Config.cfg 1 p s
  | lb0set p => exact next_inj ran ▸ lbset_traffic Config.cfg 0 p s
  | nop2 b => exact next_inj ran ▸ diag_traffic (.unknownSecondary b) s
  | desyncEnter b =>
    exact next_inj ran ▸ ⟨enterRecovery_busOnly Config.cfg b s, enterRecovery_issues Config.cfg b s⟩
  | bypass =>
    obtain ⟨-, rfl⟩ := exec_bypass_next ran
    exact ⟨.refl _, .refl s⟩

/-! The commands one by one. -/

/-- Settles O21: the effect of ALLSET. -/
theorem allsetSetsPinsThenEveryPresentSlot : Obligations.AllsetSetsPinsThenEveryPresentSlot :=
  fun pins v s => ⟨_, exec_allset pins v s, exec_effect (i := .allset pins v) nofun (exec_allset pins v s)⟩

/-- Settles O22: the effect of SLAB0SET. -/
theorem slab0setSetsPinsThenChannels0To7 : Obligations.Slab0setSetsPinsThenChannels0To7 :=
  fun pins v s => ⟨_, exec_slab0set pins v s, exec_effect (i := .slab0set pins v) nofun (exec_slab0set pins v s)⟩

/-- Settles O23: the effect of SLAB1SET. -/
theorem slab1setWritesChannels8To15WithoutPins : Obligations.Slab1setWritesChannels8To15WithoutPins :=
  fun v s => ⟨_, exec_slab1set v s, exec_effect (i := .slab1set v) nofun (exec_slab1set v s)⟩

/-- Settles O24: the effects of LB1SET and LB0SET. -/
theorem lightbarSetsServeTheDacSlotsOfTheirSlab : Obligations.LightbarSetsServeTheDacSlotsOfTheirSlab :=
  fun p s => ⟨⟨_, exec_lb1set p s, exec_effect (i := .lb1set p) nofun (exec_lb1set p s)⟩,
    ⟨_, exec_lb0set p s, exec_effect (i := .lb0set p) nofun (exec_lb0set p s)⟩⟩

/-- Settles O26: a diagnostic is all that NOP2 leaves. -/
theorem nop2ChangesNothing : Obligations.Nop2ChangesNothing :=
  fun b s => ⟨diag (.unknownSecondary b) s, exec_nop2 b s, rfl⟩

/-- Settles O27: the effect of DESYNC_ENTER. -/
theorem desyncEnterLoadsTheCounterAndTheSafePattern : Obligations.DesyncEnterLoadsTheCounterAndTheSafePattern :=
  fun b s => ⟨_, exec_desyncEnter b s, exec_effect (i := .desyncEnter b) nofun (exec_desyncEnter b s)⟩

/-- Settles O28: DESYNC in 1..4 is what `recovering` asks for. -/
theorem bypassCountsDownByOne : Obligations.BypassCountsDownByOne := by
  intro s low high
  have recovers : recovering s.desync = true :=
    (recovering_iff s.desync).mpr ⟨fun zero => by simp [zero] at low, high⟩
  exact ⟨leaveRecoveryStep s, (exec_bypass s).trans (if_pos recovers), rfl, recovering_toNat_sub_one recovers⟩

/-- Settles O29: neither 0 nor 5..7 is in 1..4. -/
theorem bypassOutsideRecoveryIsRefused : Obligations.BypassOutsideRecoveryIsRefused := by
  intro s outside
  have not_recovering : ¬ recovering s.desync = true := by
    rw [recovering_iff]
    rintro ⟨nonzero, high⟩
    exact outside.elim nonzero (by omega)
  exact (exec_bypass s).trans (if_neg not_recovering)

/-- RESCAN: one scan, then both lightbar configurations from the new table. -/
theorem rescan_effect (cfg : Cfg) (s : State) :
    ∃ rest, BusOnly { s with table := (rescan cfg s).table } (rescan cfg s) ∧
      ScanOutcome cfg s (rescan cfg s) rest ∧
      rest.map actOf = lbcfgActs cfg (rescan cfg s).table 0 ++ lbcfgActs cfg (rescan cfg s).table 1 := by
  obtain ⟨⟨bs, scanTrace, blocks⟩, scanKept⟩ := scan_spec cfg s
  obtain ⟨kept, rest, trace, acts⟩ := (lbcfg_traffic cfg 0 (scan cfg s)).trans (lbcfg_traffic cfg 1 _)
  have table : (rescan cfg s).table = (scan cfg s).table := kept.table
  refine ⟨rest, ?_, ⟨bs, ?_, ?_⟩, ?_⟩
  · rw [table]
    exact scanKept.trans kept
  · rw [List.append_nil] at scanTrace
    rw [← scanTrace]
    exact trace
  · rw [table]
    exact blocks
  · rw [acts, table, (lbcfg_traffic cfg 0 (scan cfg s)).1.table]

/-- Settles O25: the row of FF FE, and RESCAN's effect. -/
theorem rescanReplacesTheTableThenConfiguresBothSlabs : Obligations.RescanReplacesTheTableThenConfiguresBothSlabs := by
  refine ⟨fun f good second => (DecodesTo.rescan good second).decodeFrame_eq, fun s => ?_⟩
  obtain ⟨rest, effect⟩ := rescan_effect Config.cfg s
  exact ⟨_, rest, exec_rescan s, effect⟩

/-- Settles O44: BOOT is a scan that also marks the block booted. -/
theorem bootIsOneScan : Obligations.BootIsOneScan := by
  intro s unbooted
  obtain ⟨outcome, kept⟩ := scan_spec Config.cfg s
  have booted := step_unbooted unbooted
  unfold boot at booted
  generalize scan Config.cfg s = u at booted outcome kept
  refine ⟨_, booted, ?_, outcome⟩
  exact ⟨kept.desync, rfl, kept.pin, kept.rx, kept.tx, rfl, kept.requests, kept.bench, kept.replies⟩

/-! All commands at once. -/

/-- No command touches the link's registers, and RESCAN alone the table. -/
theorem exec_keeps {i : Instr} {s t : State} (ran : exec i s = .next t) :
    ∃ table desync pin, BusOnly { s with table := table, desync := desync, pin := pin } t ∧
      (i ≠ .rescan → table = s.table) ∧ desync = (registersAfter Config.cfg i s).desync := by
  by_cases scan : i = .rescan
  · subst scan
    obtain ⟨-, kept, -⟩ := rescan_effect Config.cfg s
    obtain rfl := next_inj ran
    exact ⟨_, s.desync, s.pin, kept, fun h => absurd rfl h, rfl⟩
  · have kept := (exec_effect scan ran).1
    have link : ∃ desync pin, registersAfter Config.cfg i s = { s with desync := desync, pin := pin } := by
      cases i <;> exact ⟨_, _, rfl⟩
    obtain ⟨desync, pin, registers⟩ := link
    rw [registers] at kept
    exact ⟨s.table, desync, pin, kept, fun _ => rfl, by rw [registers]⟩

theorem registersAfter_desync_of_ne (cfg : Cfg) {i : Instr} (s : State) (notEnter : ∀ b, i ≠ .desyncEnter b)
    (notBypass : i ≠ .bypass) : (registersAfter cfg i s).desync = s.desync := by
  cases i with
  | desyncEnter b => exact absurd rfl (notEnter b)
  | bypass => exact absurd rfl notBypass
  | allset | rescan | slab0set | slab1set | lb1set | lb0set | nop2 => rfl

/-- Settles O31: the registers of `exec_keeps`, one by one. -/
theorem commandsChangeOnlyTheirOwnRegisters : Obligations.CommandsChangeOnlyTheirOwnRegisters := by
  intro i s t ran
  obtain ⟨table, desync, pin, kept, sameTable, counter⟩ := exec_keeps ran
  refine ⟨fun notScan => kept.table.trans (sameTable notScan), fun notEnter notBypass => ?_, ?_, ?_,
    kept.rx, kept.tx, kept.booted, kept.requests, kept.replies, kept.bench⟩
  · exact kept.desync.trans (counter.trans (registersAfter_desync_of_ne _ s notEnter notBypass))
  · rintro ⟨b, rfl⟩
    exact kept.desync.trans counter
  · rintro rfl
    exact kept.desync.trans counter

/-- A command's registers from two states that agree on the block's registers. -/
theorem registersAfter_sameBlock (cfg : Cfg) (i : Instr) {s u : State} (h : SameBlock s u) :
    SameBlock (registersAfter cfg i s) (registersAfter cfg i u) := by
  obtain ⟨desync, table, pin, rx, tx⟩ := h
  cases i with
  | allset | slab0set => exact ⟨desync, table, rfl, rx, tx⟩
  | desyncEnter => exact ⟨rfl, table, rfl, rx, tx⟩
  | bypass => exact ⟨congrArg (· - 1) desync, table, pin, rx, tx⟩
  | rescan | slab1set | lb1set | lb0set | nop2 => exact ⟨desync, table, pin, rx, tx⟩

/-- What bus traffic leaves alone includes the block's registers. -/
theorem BusOnly.sameBlock {s t u v : State} (h : BusOnly s t) (k : BusOnly u v) (same : SameBlock s u) :
    SameBlock t v where
  desync := (h.desync.trans same.desync).trans k.desync.symm
  table := (h.table.trans same.table).trans k.table.symm
  pin := (h.pin.trans same.pin).trans k.pin.symm
  rx := (h.rx.trans same.rx).trans k.rx.symm
  tx := (h.tx.trans same.tx).trans k.tx.symm

/-- Settles O32: the registers and the actions are functions of the command, the registers and the table before it; no
acknowledge bit is among their arguments. -/
theorem acknowledgeBitsReachBlockStateOnlyInAScan : Obligations.AcknowledgeBitsReachBlockStateOnlyInAScan := by
  intro i s u s' u' notScan same ranS ranU
  obtain ⟨keptS, issuedS⟩ := exec_effect notScan ranS
  obtain ⟨keptU, issuedU⟩ := exec_effect notScan ranU
  refine ⟨keptS.sameBlock keptU (registersAfter_sameBlock _ i same), commandActs Config.cfg i s.table, issuedS, ?_⟩
  rw [same.table]
  exact issuedU

end Sys2Proof.Machine
end

section
/-! What the recorded bus writes of the commands are: safe values (60_exceptions.md R235), four for each present slot
(42_voltage_encode.md R142), none from an empty table (41_topology_scan.md R124). -/

namespace Sys2Proof.Machine

open Sys2Proof

/-- Each recorded bus write is one of the actions. -/
theorem Issues.write_mem {s t : State} {as : List Act} (h : Issues s t as) :
    ∃ evs, t.trace = s.trace ++ evs ∧ ∀ e, Event.bus e ∈ evs → Act.write e.addr e.bytes ∈ as := by
  obtain ⟨evs, trace, rfl⟩ := h
  exact ⟨evs, trace, fun e he => List.mem_map.mpr ⟨_, he, rfl⟩⟩

/-! Safe values. -/

/-- An action whose bus write, if it is one, carries a value that its device may be sent. -/
def SafeAct (cfg : Cfg) : Act → Prop
  | .write a bytes => SafeWrite cfg a bytes
  | .pins _ => True

theorem safeWrite_muxAddr0 (cfg : Cfg) {x : Byte} (h : x = 0 ∨ ∃ i < 8, x = BitVec.ofNat 8 (2 ^ i)) :
    SafeWrite cfg cfg.muxAddr0 [x] := .inl ⟨by simp [isMuxAddr], x, rfl, h⟩

theorem safeWrite_muxAddr1 (cfg : Cfg) {x : Byte} (h : x = 0 ∨ ∃ i < 8, x = BitVec.ofNat 8 (2 ^ i)) :
    SafeWrite cfg cfg.muxAddr1 [x] := .inl ⟨by simp [isMuxAddr], x, rfl, h⟩

theorem selectActs_safe (cfg : Cfg) (c : Channel) : ∀ a ∈ selectActs cfg c, SafeAct cfg a := by
  have bit : BitVec.ofNat 8 (2 ^ (c.val % 8)) = 0 ∨
      ∃ i < 8, BitVec.ofNat 8 (2 ^ (c.val % 8)) = BitVec.ofNat 8 (2 ^ i) :=
    .inr ⟨c.val % 8, Nat.mod_lt _ (by decide), rfl⟩
  simp only [selectActs, List.forall_mem_cons]
  refine ⟨safeWrite_muxAddr0 cfg (.inl rfl), safeWrite_muxAddr1 cfg (.inl rfl), ?_, nofun⟩
  split
  · exact safeWrite_muxAddr0 cfg bit
  · exact safeWrite_muxAddr1 cfg bit

/-- Whoever is sent bytes is a DAC with two of them or the potentiometer with one. -/
theorem deviceBytes_cases {cfg : Cfg} {a : BusAddr} {n : Nat} {bytes : List Byte}
    (h : deviceBytes cfg a n = some bytes) :
    ((a = cfg.dacA ∨ a = cfg.dacB) ∧ bytes = dacBytes n) ∨
    (devType cfg (some a) = .pot ∧ a = cfg.pot ∧ bytes = [potByte n]) := by
  unfold deviceBytes at h
  split at h
  case isTrue dac => exact .inl ⟨dac, (Option.some.inj h).symm⟩
  case isFalse notDac =>
    split at h
    case isTrue pot => exact .inr ⟨by simp only [devType, if_neg notDac, if_pos pot], pot, (Option.some.inj h).symm⟩
    case isFalse => exact nomatch h

/-- The bytes of a clamped value are in the range of the device's kind. -/
theorem deviceBytes_safe {cfg : Cfg} {a : BusAddr} {n : Nat} (hn : n ≤ 4000) {bytes : List Byte}
    (h : deviceBytes cfg a n = some bytes) : SafeWrite cfg a bytes := by
  obtain ⟨dac, rfl⟩ | ⟨-, pot, rfl⟩ := deviceBytes_cases h
  · refine .inr (.inl ⟨by simpa [isDac] using dac, _, _, rfl, ?_⟩)
    simp only [BitVec.toNat_ofNat]
    omega
  · exact .inr (.inr ⟨pot, _, rfl, potByte_range hn⟩)

theorem slotActs_safe (cfg : Cfg) (c : Channel) (raw : U16) (slot : Slot) :
    ∀ a ∈ slotActs cfg c raw slot, SafeAct cfg a := by
  cases slot with
  | none => exact nofun
  | some addr =>
    intro a ha
    obtain sel | dev := List.mem_append.mp ha
    · exact selectActs_safe cfg c a sel
    · obtain ⟨bytes, sent, rfl⟩ : ∃ bytes, deviceBytes cfg addr (clampNat raw.toNat) = some bytes ∧
          Act.write addr bytes = a := by simpa using dev
      exact deviceBytes_safe (clampNat_le _) sent

theorem vsetActs_safe (cfg : Cfg) (t : Table) (lo n : Nat) (h : lo + n ≤ 16) (src : Fin n → U16) :
    ∀ a ∈ vsetActs cfg t lo n h src, SafeAct cfg a := by
  intro a ha
  obtain ⟨k, -, hk⟩ := List.mem_flatMap.mp ha
  obtain ⟨b, -, hb⟩ := List.mem_flatMap.mp hk
  exact slotActs_safe cfg _ _ _ a hb

theorem commandActs_safe (cfg : Cfg) {i : Instr} (h : writesVoltages i = true) (t : Table) :
    ∀ a ∈ commandActs cfg i t, SafeAct cfg a := by
  cases i with
  | allset pins v => exact List.forall_mem_cons.mpr ⟨trivial, vsetActs_safe cfg t 0 16 _ _⟩
  | slab0set pins v => exact List.forall_mem_cons.mpr ⟨trivial, vsetActs_safe cfg t 0 8 _ _⟩
  | slab1set v => exact vsetActs_safe cfg t 8 8 (by decide) _
  | desyncEnter b => exact List.forall_mem_cons.mpr ⟨trivial, vsetActs_safe cfg t 0 16 _ _⟩
  | rescan | lb1set | lb0set | nop2 | bypass => exact nomatch h

/-- Settles O33: every action of a voltage command is safe, and every recorded write is one of its actions. -/
theorem voltageCommandsWriteOnlySafeValues : Obligations.VoltageCommandsWriteOnlySafeValues := by
  intro i s t voltages ran
  have notScan : i ≠ .rescan := by
    rintro rfl
    exact nomatch voltages
  obtain ⟨evs, trace, acts⟩ := (exec_effect notScan ran).2.write_mem
  exact ⟨evs, trace, fun e he => commandActs_safe Config.cfg voltages s.table _ (acts e he)⟩

/-! An empty table. -/

theorem slotOf_empty : ∀ c b, slotOf emptyTable c b = none := by decide

theorem vsetActs_empty (cfg : Cfg) (lo n : Nat) (h : lo + n ≤ 16) (src : Fin n → U16) :
    vsetActs cfg emptyTable lo n h src = [] := by
  simp [vsetActs, slotOf_empty, slotActs]

theorem lbsetActs_empty (cfg : Cfg) (slab : Fin 2) (p : Vector LbPair 16) : lbsetActs cfg emptyTable slab p = [] := by
  simp [lbsetActs, slotOf_empty, lbsetSlotActs]

theorem write_not_mem_commandActs_empty (cfg : Cfg) (i : Instr) (a : BusAddr) (bytes : List Byte) :
    Act.write a bytes ∉ commandActs cfg i emptyTable := by
  cases i <;> simp [commandActs, vsetActs_empty, lbsetActs_empty]

/-- Settles O35: no slot is present, so of every command's actions only the pins are left. -/
theorem emptyTableMeansNoBusWrite : Obligations.EmptyTableMeansNoBusWrite := by
  intro i s t empty notScan ran
  obtain ⟨evs, trace, acts⟩ := (exec_effect notScan ran).2.write_mem
  rw [empty] at acts
  exact ⟨evs, trace, fun e he => write_not_mem_commandActs_empty Config.cfg i _ _ (acts e he)⟩

/-! The number of writes. -/

/-- One pin action and then bus writes: the record is one pin event and as many bus events as there are writes. -/
theorem Issues.pins_then_writes {s t : State} {m : U16} {as : List Act} (h : Issues s t (.pins m :: as))
    (writes : ∀ m, Act.pins m ∉ as) :
    ∃ es : List BusEvent, t.trace = s.trace ++ .pins m :: es.map Event.bus ∧ es.length = as.length := by
  obtain ⟨evs, trace, acts⟩ := h
  obtain ⟨e, evs, rfl, first, others⟩ := List.map_eq_cons_iff.mp acts
  obtain ⟨es, rfl, same⟩ := busEvents_of_writes others writes
  cases e with
  | bus w => exact nomatch first
  | pins m' =>
    obtain rfl := Act.pins.inj first
    exact ⟨es, trace, by simpa using congrArg List.length same⟩

theorem busHistory_of_pins_then_writes {s t : State} {m : U16} {es : List BusEvent}
    (h : t.trace = s.trace ++ .pins m :: es.map Event.bus) : busHistory t = busHistory s ++ es := by
  simp [busHistory, h, List.filterMap_append]

theorem deviceBytes_isSome {cfg : Cfg} {a : BusAddr} (h : devType cfg (some a) ≠ .unknown) (n : Nat) :
    ∃ bytes, deviceBytes cfg a n = some bytes := by
  by_cases dac : a = cfg.dacA ∨ a = cfg.dacB
  · exact ⟨_, deviceBytes_of_dac dac n⟩
  · by_cases pot : a = cfg.pot
    · exact ⟨_, by rw [deviceBytes, if_neg dac, if_pos pot]⟩
    · obtain ⟨notA, notB⟩ := not_or.mp dac
      exact absurd (devType_some_of_ne notA notB pot) h

/-- A slot with a device address gets the three writes of its select and one of its own, an absent one none. -/
theorem slotActs_length {cfg : Cfg} {t : Table} (h : Recognized cfg t) (c : Channel) (b : Fin 2) (raw : U16) :
    (slotActs cfg c raw (slotOf t c b)).length = if (slotOf t c b).isSome then 4 else 0 := by
  cases slot : slotOf t c b with
  | none => rfl
  | some a =>
    obtain ⟨bytes, sent⟩ := deviceBytes_isSome (h c b a slot) (clampNat raw.toNat)
    simp [slotActs, selectActs, sent]

/-- The slots of a channel: four writes for each present one. -/
theorem channelActs_length {cfg : Cfg} {t : Table} (h : Recognized cfg t) (c : Channel) (raw : U16) :
    ((List.finRange 2).flatMap fun b => slotActs cfg c raw (slotOf t c b)).length =
      4 * ((List.finRange 2).filter fun b => (slotOf t c b).isSome).length := by
  generalize List.finRange 2 = slots
  induction slots with
  | nil => rfl
  | cons b slots ih =>
    rw [List.flatMap_cons, List.length_append, ih, slotActs_length h, List.filter_cons]
    split
    · rw [List.length_cons]
      omega
    · omega

theorem vsetActs_all_length {cfg : Cfg} {t : Table} (h : Recognized cfg t) (src : Fin 16 → U16) :
    (vsetActs cfg t 0 16 (by decide) src).length = 4 * presentSlots t := by
  have channel : ∀ k : Fin 16, (⟨0 + k.val, by omega⟩ : Channel) = k := fun k => Fin.ext (Nat.zero_add _)
  simp only [vsetActs, presentSlots, channel]
  generalize List.finRange 16 = channels
  induction channels with
  | nil => rfl
  | cons c channels ih =>
    rw [List.flatMap_cons, List.flatMap_cons, List.length_append, List.length_append, channelActs_length h, ih,
      Nat.mul_add]

/-- Settles O34: the pin event stands first, and the rest of the record is as long as VSET's list of writes. -/
theorem allsetMakesFourWritesForEachPresentSlot : Obligations.AllsetMakesFourWritesForEachPresentSlot := by
  intro pins v s t recognized ran
  have issued := (exec_effect (i := .allset pins v) nofun ran).2
  obtain ⟨es, trace, length⟩ := issued.pins_then_writes (pins_not_mem_vsetActs Config.cfg s.table 0 16 _ _)
  refine ⟨?_, _, trace, ?_⟩
  · rw [busHistory_of_pins_then_writes trace, List.length_append, length, vsetActs_all_length recognized]
  · exact congrArg (pins :: ·) (pinEvents_map_bus es)

end Sys2Proof.Machine
end

section
/-! The environment follows the recorded writes over every command and step (10_state.md R32), and with it the invariant
of the good states (R20, R23) is kept. -/

namespace Sys2Proof.Machine

open Sys2Proof

theorem Follows.enterRecovery {cfg : Cfg} {s u : State} (b : Byte) (h : Follows cfg s u) :
    Follows cfg s (enterRecovery cfg b u) :=
  Follows.vset 0 16 (by decide) _
    (((h.diag (.desync b)).congr (w := { Machine.diag (.desync b) u with desync := recoveryLen })
      rfl rfl rfl rfl).pinApply _)

theorem Follows.exec {i : Instr} {s u t : State} (h : Follows Config.cfg s u) (ran : exec i u = .next t) :
    Follows Config.cfg s t := by
  cases i with
  | allset pins v => exact next_inj ran ▸ (h.pinApply pins).vset 0 16 _ _
  | rescan => exact next_inj ran ▸ (h.scan.lbcfg 0).lbcfg 1
  | slab0set pins v => exact next_inj ran ▸ (h.pinApply pins).vset 0 8 _ _
  | slab1set v => exact next_inj ran ▸ h.vset 8 8 _ _
  | lb1set p => exact next_inj ran ▸ h.lbset 1 p
  | lb0set p => exact next_inj ran ▸ h.lbset 0 p
  | nop2 b => exact next_inj ran ▸ h.diag _
  | desyncEnter b => exact next_inj ran ▸ h.enterRecovery b
  | bypass =>
    obtain ⟨-, rfl⟩ := exec_bypass_next ran
    exact h.congr rfl rfl rfl rfl

theorem step_follows {s t : State} (stepped : step s = .next t) : Follows Config.cfg s t := by
  obtain ⟨-, rfl⟩ | ⟨-, -, rfl⟩ | ⟨-, req, u, -, ran, rfl⟩ := step_next stepped
  · exact (Follows.refl _ s).boot
  · exact .refl _ t
  · have latched : Follows Config.cfg s (latch req s) := (Follows.refl _ s).congr rfl rfl rfl rfl
    exact (latched.exec ran).congr (echo_bench u) (echo_trace u) (echo_muxctl u) (echo_dev u)

/-- Settles O51: the part of `Follows` about the record, for commands and for steps. -/
theorem devicesHoldWhatTheAcknowledgedWritesLeft : Obligations.DevicesHoldWhatTheAcknowledgedWritesLeft :=
  ⟨fun _ s _ ran => ((Follows.refl _ s).exec ran).2, fun _ _ stepped => (step_follows stepped).2⟩

/-! The invariant. -/

theorem envStep_wf (cfg : Cfg) (bench : Option Topology) (env : Vector Byte 2 × DevRegs) (e : Event)
    (h : devWf env.2) : devWf (envStep cfg bench env e).2 := by
  cases e with
  | pins m => exact h
  | bus e =>
    rw [envStep]
    split
    · exact devAfter_wf h
    · exact h

/-- Recorded writes keep the store's canonical form. -/
theorem EnvFollows.devWf {cfg : Cfg} {s t : State} (h : EnvFollows cfg s t) (wf : devWf s.dev) : devWf t.dev := by
  obtain ⟨evs, -, env⟩ := h
  have kept : Machine.devWf (evs.foldl (envStep cfg s.bench) (s.muxctl, s.dev)).2 :=
    List.foldlRecOn (motive := fun env => Machine.devWf env.2) evs _ wf
      fun env held e _ => envStep_wf cfg s.bench env e held
  rwa [← env] at kept

@[simp] theorem boot_table (cfg : Cfg) (s : State) : (boot cfg s).table = (scan cfg s).table := by simp only [boot]

@[simp] theorem boot_desync (cfg : Cfg) (s : State) : (boot cfg s).desync = s.desync := by
  simpa only [boot] using (scan_spec cfg s).2.desync

theorem exec_tableWf {i : Instr} {s t : State} (wf : TableWf Config.cfg s.table) (ran : exec i s = .next t) :
    TableWf Config.cfg t.table := by
  by_cases scan : i = .rescan
  · subst scan
    obtain ⟨rest, -, outcome, -⟩ := rescan_effect Config.cfg s
    exact next_inj ran ▸ outcome.tableWf Config.cfg_valid.2.1
  · obtain ⟨table, desync, pin, kept, same, -⟩ := exec_keeps ran
    rw [kept.table]
    exact same scan ▸ wf

theorem exec_desync_le {i : Instr} {s t : State} (range : s.desync.toNat ≤ 4) (ran : exec i s = .next t) :
    t.desync.toNat ≤ 4 := by
  obtain ⟨table, desync, pin, kept, -, counter⟩ := exec_keeps ran
  rw [kept.desync, counter]
  cases i with
  | desyncEnter b => exact le_rfl
  | bypass =>
    obtain ⟨recovers, -⟩ := exec_bypass_next ran
    have counted := recovering_toNat_sub_one recovers
    change (s.desync - 1).toNat ≤ 4
    omega
  | allset | rescan | slab0set | slab1set | lb1set | lb0set | nop2 => exact range

/-- Settles O48: DESYNC and the table by the four ways a step can go, the store by the recorded writes. -/
theorem everyStepKeepsTheInvariant : Obligations.EveryStepKeepsTheInvariant := by
  intro s t inv stepped
  have dev := (step_follows stepped).2.devWf inv.dev
  obtain ⟨-, rfl⟩ | ⟨-, -, rfl⟩ | ⟨-, req, u, -, ran, rfl⟩ := step_next stepped
  · refine ⟨?_, ?_, dev⟩
    · rw [boot_desync]
      exact inv.desync
    · rw [boot_table]
      exact scan_tableWf Config.cfg_valid.2.1 s
  · exact inv
  · refine ⟨?_, ?_, dev⟩
    · rw [echo_desync]
      exact exec_desync_le (s := latch req s) inv.desync ran
    · rw [echo_table]
      exact exec_tableWf (s := latch req s) inv.table ran

theorem emptyTable_wf {cfg : Cfg} (nodup : cfg.candidates.Nodup) : TableWf cfg emptyTable :=
  tableWf_of_firstTwo nodup (fun _ => []) (fun _ => List.nil_sublist _) (by decide)

/-- Settles O49: at reset DESYNC is 0 and nothing is stored, neither in the table nor for a device. -/
theorem resetMeetsTheInvariant : Obligations.ResetMeetsTheInvariant :=
  ⟨by decide, emptyTable_wf Config.cfg_valid.2.1, reset_dev_wf⟩

/-- Settles O50: the fields of `State.reset`. -/
theorem resetValues : Obligations.ResetValues := ⟨rfl, slotOf_empty, rfl, rfl, rfl⟩

end Sys2Proof.Machine
end

section
/-! One exchange and runs of them (45_commands.md R180, R191, R192; 46_frame_echo.md R212). -/

namespace Sys2Proof.Machine

open Sys2Proof

theorem NextRequest.requests {s : State} {req : Frame} (h : NextRequest s req) :
    ∃ rest, s.requests = req.toList :: rest := List.head?_eq_some_iff.mp h

theorem step_of_nextRequest {s : State} {req : Frame} (booted : s.booted = true) (next : NextRequest s req) :
    step s = exchange req s := by
  obtain ⟨rest, requests⟩ := next.requests
  exact step_frame booted requests (frameOfBytes_toList req)

theorem finish_eq (o : Host.Outcome State Fault Refusal) :
    finish o = match o with
      | .next t => .next { t with tx := echoFrame t.rx t.tx }
      | .fault r => .fault r
      | .refused r => .refused r := by
  cases o <;> rfl

/-- Settles O38: the exchange latches, runs and finishes. -/
theorem stepRunsTheDecodedCommand : Obligations.StepRunsTheDecodedCommand :=
  fun _ _ booted next => (step_of_nextRequest booted next).trans (finish_eq _)

/-- Settles O46: the step's equation for a transfer of another length. -/
theorem otherTransfersAreRefused : Obligations.OtherTransfersAreRefused := by
  intro s bytes booted arrived length
  obtain ⟨rest, requests⟩ := List.head?_eq_some_iff.mp arrived
  exact step_wrongLength booted requests length

/-- Settles O47: the two branches of the test for validity. -/
theorem invalidConfigurationsAreRefused : Obligations.InvalidConfigurationsAreRefused :=
  fun _ => ⟨fun valid => ⟨valid, dif_pos valid⟩, fun invalid => dif_neg invalid⟩

/-- A completed exchange is the command from the latched state, then ECHO. -/
theorem exchange_next {s t : State} {req : Frame} (h : exchange req s = .next t) :
    ∃ u, exec (decodeExchange s.desync req) (latch req s) = .next u ∧ t = echo u := by
  unfold exchange at h
  generalize exec (decodeExchange s.desync req) (latch req s) = o at h
  cases o with
  | next u => exact ⟨u, rfl, (next_inj h).symm⟩
  | fault r => exact nomatch r
  | refused r => exact nomatch h

/-! DESYNC over one exchange. -/

theorem decodeFrame_desync_of_good {req : Frame} (good : req[0] = 0xFF) (s : State) :
    (registersAfter Config.cfg (decodeFrame req) s).desync = s.desync :=
  registersAfter_desync_of_ne _ s (decodeFrame_ne_desyncEnter good) (decodeFrame_ne_bypass req)

/-- Settles O40: with DESYNC 0 the frame's command is run, of which DESYNC_ENTER alone loads DESYNC; else the exchange
is bypassed. -/
theorem desyncTransitionsOverAnExchange : Obligations.DesyncTransitionsOverAnExchange := by
  intro s req booted range next
  by_cases synchronized : s.desync = 0
  · obtain ⟨t, exchanged⟩ := exchange_completes range req
    obtain ⟨u, ran, rfl⟩ := exchange_next exchanged
    obtain ⟨table, desync, pin, kept, -, counter⟩ := exec_keeps ran
    have counted : (echo u).desync = desync := (echo_desync u).trans kept.desync
    rw [synchronized, decodeExchange_zero] at counter
    refine ⟨_, (step_of_nextRequest booted next).trans exchanged, fun _ good => ?_, fun _ bad => ?_,
      fun recovers => absurd synchronized recovers⟩
    · exact counted.trans (counter.trans ((decodeFrame_desync_of_good good _).trans synchronized))
    · rw [decodeFrame_of_op0_ne bad] at counter
      exact counted.trans counter
  · obtain ⟨rest, requests⟩ := next.requests
    have recovers := (recovering_iff s.desync).mpr ⟨synchronized, range⟩
    obtain ⟨t, stepped, counted, -, kept⟩ := step_recovering_counts booted requests recovers
    exact ⟨t, stepped, fun zero => absurd zero synchronized, fun zero => absurd zero synchronized,
      fun _ => ⟨counted, kept.table, kept.pin, kept.trace, kept.dev, kept.muxctl⟩⟩

/-! The link over one exchange. -/

/-- An exchange sends TX as it stands and builds the next reply from its request (R210, R211). -/
theorem step_link {s t : State} {req : Frame} (booted : s.booted = true) (next : NextRequest s req)
    (stepped : step s = .next t) :
    t.booted = true ∧ t.replies = s.replies ++ [s.tx] ∧ t.tx = echoFrame req s.tx := by
  obtain ⟨u, ran, rfl⟩ := exchange_next ((step_of_nextRequest booted next).symm.trans stepped)
  obtain ⟨table, desync, pin, kept, -, -⟩ := exec_keeps ran
  have rx : u.rx = req := kept.rx
  have tx : u.tx = s.tx := kept.tx
  exact ⟨(echo_booted u).trans (kept.booted.trans booted), (echo_replies u).trans kept.replies,
    by rw [echo_tx, rx, tx]⟩

/-- Settles O41: the second reply is the TX that the first exchange's ECHO built. -/
theorem replyEchoesThePreviousRequest : Obligations.ReplyEchoesThePreviousRequest := by
  intro s t u first second booted next stepS nextT stepT
  obtain ⟨bootedT, repliesT, txT⟩ := step_link booted next stepS
  obtain ⟨-, repliesU, -⟩ := step_link bootedT nextT stepT
  refine ⟨echoFrame first s.tx, ?_, fun k => echoFrame_getElem first s.tx k.val k.isLt⟩
  rw [repliesU, repliesT, txT, List.append_assoc]
  rfl

/-! A stream of bad frames. -/

/-- A run goes on from where its first part ends. -/
theorem run_add {s t : State} {m : Nat} (h : Host.Core.run Sys2Proof.core m s = .next t) (n : Nat) :
    Host.Core.run Sys2Proof.core (m + n) s = Host.Core.run Sys2Proof.core n t := by
  induction m generalizing s with
  | zero =>
    obtain rfl := next_inj h
    rw [Nat.zero_add]
  | succ m ih =>
    cases stepped : step s with
    | next u =>
      rw [run_succ_of_step stepped] at h
      rw [Nat.succ_add, run_succ_of_step stepped, ih h]
    | fault r => exact nomatch r
    | refused r =>
      have refused : Sys2Proof.core.step s = .refused r := stepped
      simp [Host.Core.run, refused] at h

/-- What the safe pattern does on the board (45_commands.md R189). -/
def safePatternActs (cfg : Cfg) (t : Table) : List Act :=
  .pins cfg.safePinMask :: vsetActs cfg t 0 16 (by decide) (fun k => cfg.safeRaw[k])

/-- A bad frame at a synchronized block: the exchange enters recovery and applies the safe pattern. -/
theorem step_bad {s : State} {req : Frame} {rest : List (List Byte)} (booted : s.booted = true)
    (synchronized : s.desync = 0) (bad : req[0] ≠ 0xFF) (requests : s.requests = req.toList :: rest) :
    ∃ t, step s = .next t ∧ t.booted = true ∧ t.desync = 4 ∧ t.table = s.table ∧ t.requests = rest ∧
      Issues s t (safePatternActs Config.cfg s.table) := by
  have stepped : step s = exchange req s := step_frame booted requests (frameOfBytes_toList req)
  have ran := exec_desyncEnter (op0 req) (latch req s)
  obtain ⟨kept, issued⟩ := exec_effect (i := .desyncEnter (op0 req)) nofun ran
  rw [exchange, synchronized, decodeExchange_zero, decodeFrame_of_op0_ne bad, ran, finish] at stepped
  generalize enterRecovery Config.cfg (op0 req) (latch req s) = u at stepped kept issued
  refine ⟨_, stepped, (echo_booted u).trans (kept.booted.trans booted), (echo_desync u).trans kept.desync,
    (echo_table u).trans kept.table, ?_, ?_⟩
  · rw [echo_requests, kept.requests]
    exact congrArg List.tail requests
  · obtain ⟨evs, trace, acts⟩ := issued
    exact ⟨evs, (echo_trace u).trans trace, acts⟩

theorem Issues.of_trace_eq {s t : State} (h : t.trace = s.trace) : Issues s t [] := ⟨[], by simpa using h, rfl⟩

/-- One window: a bad frame, then the four exchanges that count DESYNC out again, whatever their frames hold. -/
theorem run_window {s : State} {bad : Frame} (four : List Frame) (length : four.length = 4)
    {rest : List (List Byte)} (booted : s.booted = true) (synchronized : s.desync = 0) (isBad : bad[0] ≠ 0xFF)
    (requests : s.requests = (bad :: four).map (·.toList) ++ rest) :
    ∃ t, Host.Core.run Sys2Proof.core 5 s = .next t ∧ t.booted = true ∧ t.desync = 0 ∧ t.table = s.table ∧
      t.requests = rest ∧ Issues s t (safePatternActs Config.cfg s.table) := by
  obtain ⟨u, stepped, bootedU, desyncU, tableU, requestsU, issued⟩ := step_bad booted synchronized isBad requests
  have loaded : u.desync.toNat = 4 := by rw [desyncU]; rfl
  obtain ⟨t, ran, counted, taken, kept⟩ := run_recovering four bootedU requestsU (by omega) (by omega)
  rw [length] at ran
  rw [loaded, length] at counted
  refine ⟨t, (run_succ_of_step stepped 4).trans ran, kept.booted.trans bootedU, BitVec.eq_of_toNat_eq counted,
    kept.table.trans tableU, taken, ?_⟩
  simpa using issued.trans (.of_trace_eq kept.trace)

/-- Settles O43, by induction on the number of windows. -/
theorem badFramesApplyTheSafePatternOncePerWindow : Obligations.BadFramesApplyTheSafePatternOncePerWindow := by
  intro n
  induction n with
  | zero => exact fun s frames _ synchronized _ _ _ => ⟨s, rfl, synchronized, rfl, .refl s⟩
  | succ n ih =>
    intro s frames booted synchronized length allBad requests
    obtain ⟨bad, frames, rfl⟩ := List.exists_cons_of_length_pos (l := frames) (by omega)
    rw [List.length_cons] at length
    obtain ⟨isBad, othersBad⟩ := List.forall_mem_cons.mp allBad
    have cut : s.requests = (bad :: frames.take 4).map (·.toList) ++ (frames.drop 4).map (·.toList) := by
      rw [← List.map_append, List.cons_append, List.take_append_drop, requests]
    obtain ⟨u, ranWindow, bootedU, desyncU, tableU, requestsU, window⟩ :=
      run_window (frames.take 4) (by rw [List.length_take]; omega) booted synchronized isBad cut
    obtain ⟨t, ran, desync, table, windows⟩ := ih u (frames.drop 4) bootedU desyncU
      (by rw [List.length_drop]; omega) (fun f hf => othersBad f (List.mem_of_mem_drop hf)) requestsU
    refine ⟨t, ?_, desync, table.trans tableU, ?_⟩
    · rw [show 5 * (n + 1) = 5 + 5 * n by omega, run_add ranWindow]
      exact ran
    · rw [List.replicate_succ, List.flatten_cons]
      exact window.trans (tableU ▸ windows)

end Sys2Proof.Machine
end

section
/-! The test environment (20_memory.md R66, R67; the spec's decision D31): which devices a write reaches, what a voltage
command leaves in each of them, and what a scan finds. -/

namespace Sys2Proof.Machine

open Sys2Proof

/-! The device store after one write. -/

theorem devKey_inj {c d : Channel} {a b : BusAddr} (h : devKey c a = devKey d b) : c = d ∧ a = b := by
  have hc := a.isLt
  have hd := b.isLt
  simp only [devKey] at h
  exact ⟨Fin.ext (by omega), BitVec.eq_of_toNat_eq (by omega)⟩

/-- An acknowledged write with data is read back from every device it reaches, and from no other. -/
theorem devRead_devAfter {cfg : Cfg} {a : BusAddr} (device : isMuxAddr cfg a = false) {bytes : List Byte}
    (data : bytes ≠ []) (bench : Option Topology) (ctl : Vector Byte 2) (d : DevRegs) (c : Channel) (x : BusAddr) :
    devRead (devKey c x) (devAfter cfg bench ctl d a bytes) =
      if reaches bench ctl a c = true ∧ x = a then some bytes else devRead (devKey c x) d := by
  suffices walk : ∀ (l : List Channel) (d : DevRegs), devRead (devKey c x) (l.foldl
      (fun acc c => if reaches bench ctl a c then devWrite (devKey c a) bytes acc else acc) d) =
      if c ∈ l ∧ reaches bench ctl a c = true ∧ x = a then some bytes else devRead (devKey c x) d by
    simpa [devAfter, device, data] using walk (List.finRange 16) d
  intro l
  induction l with
  | nil => simp
  | cons e l ih =>
    intro d
    rw [List.foldl_cons, ih]
    by_cases here : e = c ∧ x = a
    · obtain ⟨rfl, rfl⟩ := here
      by_cases reached : reaches bench ctl x e = true
      · simp [reached, devRead_devWrite_same]
      · simp [reached]
    · have other : devKey c x ≠ devKey e a := fun same => by
        obtain ⟨rfl, rfl⟩ := devKey_inj same
        exact here ⟨rfl, rfl⟩
      have kept : devRead (devKey c x) (if reaches bench ctl a e then devWrite (devKey e a) bytes d else d) =
          devRead (devKey c x) d := by
        split
        · exact devRead_devWrite_other other bytes d
        · rfl
      rw [kept]
      congr 1
      grind

theorem reaches_ctlRouting (topo : Topology) (c d : Channel) (a : BusAddr) :
    reaches (some topo) (ctlRouting c) a d = true ↔ d = c ∧ topo[d].contains a = true := by
  simp [reaches, routed_ctlRouting]

/-- With one channel routed, a device acknowledges when the board has it there. -/
theorem benchAck_ctlRouting {cfg : Cfg} {topo : Topology} {s : State} {c : Channel} {a : BusAddr}
    (device : isMuxAddr cfg a = false) (routing : s.muxctl = ctlRouting c) :
    benchAck cfg topo s a = topo[c].contains a := by
  rw [Bool.eq_iff_iff]
  simp [benchAck, device, routing, routed_ctlRouting]

/-- A device write with channel `c` routed: the addressed device behind `c` holds the data if the board has it, and
every other device what it held. -/
theorem OnBench.devRead_busWrite {topo : Topology} {s : State} (h : OnBench topo s) {cfg : Cfg} {c : Channel}
    {a : BusAddr} (device : isMuxAddr cfg a = false) (routing : s.muxctl = ctlRouting c) {bytes : List Byte}
    (data : bytes ≠ []) (d : Channel) (x : BusAddr) :
    devRead (devKey d x) (Machine.busWrite cfg a bytes s).2.dev =
      if d = c ∧ x = a ∧ topo[c].contains a = true then some bytes else devRead (devKey d x) s.dev := by
  rw [busWrite_dev, h.ackOf_eq, benchAck_ctlRouting device routing, h.bench, routing]
  by_cases present : topo[c].contains a = true
  · rw [if_pos present, devRead_devAfter device data]
    simp only [reaches_ctlRouting]
    congr 1
    grind
  · rw [if_neg present, if_neg (fun all => present all.2.2)]

/-! WRITEV by the kind of device. -/

theorem writeV_of_deviceBytes {cfg : Cfg} {a : BusAddr} {raw : U16} {bytes : List Byte}
    (h : deviceBytes cfg a (clampNat raw.toNat) = some bytes) (s : State) :
    writeV cfg (some a) raw s = writeReported cfg a bytes (clamp12 raw) s := by
  obtain ⟨dac, rfl⟩ | ⟨kind, -, rfl⟩ := deviceBytes_cases h
  · simp only [writeV, devType_some_of_dac dac, encDac_eq, clamp12_toNat]
  · simp only [writeV, kind, encPot_eq, clamp12_toNat]

theorem writeV_of_no_deviceBytes {cfg : Cfg} {a : BusAddr} {raw : U16}
    (h : deviceBytes cfg a (clampNat raw.toNat) = none) (s : State) :
    writeV cfg (some a) raw s = diag (.unknownDevice (some a)) s := by
  have kind : devType cfg (some a) = .unknown := by
    by_contra known
    obtain ⟨bytes, sent⟩ := deviceBytes_isSome known (clampNat raw.toNat)
    exact nomatch sent.symm.trans h
  simp only [writeV, kind]

/-- An address that is sent a value is a device's, and the value is not empty. -/
theorem deviceBytes_some {cfg : Cfg} {a : BusAddr} {n : Nat} {bytes : List Byte}
    (h : deviceBytes cfg a n = some bytes) : (a = cfg.dacA ∨ a = cfg.dacB ∨ a = cfg.pot) ∧ bytes ≠ [] := by
  obtain ⟨dac, rfl⟩ | ⟨-, pot, rfl⟩ := deviceBytes_cases h
  · exact ⟨dac.imp_right .inl, by simp [dacBytes]⟩
  · exact ⟨.inr (.inr pot), by simp⟩

theorem OnBench.diag {topo : Topology} {s : State} (h : OnBench topo s) (d : Diag) : OnBench topo (diag d s) :=
  ⟨h.bench, h.answers⟩

theorem OnBench.writeV {topo : Topology} {s : State} (h : OnBench topo s) (cfg : Cfg) (a : BusAddr) (raw : U16) :
    OnBench topo (writeV cfg (some a) raw s) := by
  cases sent : deviceBytes cfg a (clampNat raw.toNat) with
  | none => exact writeV_of_no_deviceBytes sent s ▸ h.diag _
  | some bytes => exact writeV_of_deviceBytes sent s ▸ (h.busWrite cfg a bytes).diag _

/-- WRITEV with channel `c` routed. -/
theorem OnBench.devRead_writeV {topo : Topology} {s : State} (h : OnBench topo s) {cfg : Cfg} (valid : cfg.Valid)
    {c : Channel} (routing : s.muxctl = ctlRouting c) (a : BusAddr) (raw : U16) (d : Channel) (x : BusAddr) :
    devRead (devKey d x) (Machine.writeV cfg (some a) raw s).dev =
      if d = c ∧ x = a ∧ topo[c].contains a = true then
        (deviceBytes cfg a (clampNat raw.toNat)).or (devRead (devKey d x) s.dev)
      else devRead (devKey d x) s.dev := by
  cases sent : deviceBytes cfg a (clampNat raw.toNat) with
  | none => rw [writeV_of_no_deviceBytes sent, diag_dev, Option.none_or, ite_self]
  | some bytes =>
    obtain ⟨device, data⟩ := deviceBytes_some sent
    rw [writeV_of_deviceBytes sent, writeReported, diag_dev,
      h.devRead_busWrite (isMuxAddr_of_device valid device) routing data, Option.some_or]

/-! VSET, from one slot to all channels. -/

/-- A loop whose turns either leave an observation alone or put `target` over it. -/
theorem forFin_observes {σ β : Type} {I : σ → Prop} (obs : σ → Option β) (target : Option β) {n : Nat}
    {body : Fin n → σ → σ} (turns : Fin n → Prop) [DecidablePred turns]
    (turn : ∀ k s, I s → I (body k s) ∧ obs (body k s) = if turns k then target.or (obs s) else obs s)
    (s : σ) (hs : I s) :
    I (forFin n body s) ∧ obs (forFin n body s) = if ∃ k, turns k then target.or (obs s) else obs s := by
  induction n generalizing s with
  | zero => exact ⟨hs, by simp [forFin]⟩
  | succ n ih =>
    obtain ⟨inv, first⟩ := turn 0 s hs
    obtain ⟨invAll, others⟩ := ih (fun k => turns k.succ) (fun k => turn k.succ) (body 0 s) inv
    refine ⟨invAll, others.trans ?_⟩
    rw [first]
    simp only [Fin.exists_fin_succ]
    by_cases here : turns 0
    · simp only [here, if_true, true_or]
      split
      · rw [← Option.or_assoc, Option.or_self]
      · rfl
    · simp only [here, if_false, false_or]

/-- The environment and the table that the loops of a voltage command keep. -/
structure BoardState (topo : Topology) (t : Table) (s : State) : Prop where
  bench : OnBench topo s
  table : s.table = t

/-- The table names the device `a` on channel `c`, and the board has it there. -/
abbrev Named (t : Table) (topo : Topology) (c : Channel) (a : BusAddr) : Prop :=
  (slotOf t c 0 = some a ∨ slotOf t c 1 = some a) ∧ topo[c].contains a = true

theorem vsetSlot_none {cfg : Cfg} {c : Channel} {b : Fin 2} {s : State} (h : slotOf s.table c b = none) (raw : U16) :
    vsetSlot cfg c raw b s = s := by
  simp only [vsetSlot, h]

theorem vsetSlot_some {cfg : Cfg} {c : Channel} {b : Fin 2} {s : State} {a : BusAddr}
    (h : slotOf s.table c b = some a) (raw : U16) :
    vsetSlot cfg c raw b s = writeV cfg (some a) raw (select cfg (chanByte c) s) := by
  simp only [vsetSlot, h]

theorem BoardState.vsetSlot {topo : Topology} {t : Table} {s : State} (h : BoardState topo t s) (cfg : Cfg)
    (c : Channel) (raw : U16) (b : Fin 2) : BoardState topo t (vsetSlot cfg c raw b s) := by
  refine ⟨?_, (vsetSlot_traffic cfg c raw b s).1.table.trans h.table⟩
  cases slot : slotOf s.table c b with
  | none =>
    rw [vsetSlot_none slot]
    exact h.bench
  | some a =>
    rw [vsetSlot_some slot]
    exact (h.bench.select cfg c).writeV cfg a raw

theorem BoardState.devRead_vsetSlot {topo : Topology} {t : Table} {s : State} (h : BoardState topo t s) {cfg : Cfg}
    (valid : cfg.Valid) (c : Channel) (raw : U16) (b : Fin 2) (d : Channel) (x : BusAddr) :
    devRead (devKey d x) (Machine.vsetSlot cfg c raw b s).dev =
      if d = c ∧ slotOf t c b = some x ∧ topo[c].contains x = true then
        (deviceBytes cfg x (clampNat raw.toNat)).or (devRead (devKey d x) s.dev)
      else devRead (devKey d x) s.dev := by
  have sameSlot : slotOf t c b = slotOf s.table c b := by rw [h.table]
  rw [sameSlot]
  cases slot : slotOf s.table c b with
  | none => simp [vsetSlot_none slot]
  | some a =>
    rw [vsetSlot_some slot, (h.bench.select cfg c).devRead_writeV valid (h.bench.select_muxctl valid c), select_dev]
    by_cases same : x = a
    · subst same
      simp
    · simp [same, Ne.symm same]

/-- Both slots of a channel, which receive the same value. -/
theorem BoardState.vsetSlots {topo : Topology} {t : Table} {s : State} (h : BoardState topo t s) {cfg : Cfg}
    (valid : cfg.Valid) (c : Channel) (raw : U16) (d : Channel) (x : BusAddr) :
    BoardState topo t (forFin 2 (Machine.vsetSlot cfg c raw) s) ∧
    devRead (devKey d x) (forFin 2 (Machine.vsetSlot cfg c raw) s).dev =
      if d = c ∧ Named t topo c x then (deviceBytes cfg x (clampNat raw.toNat)).or (devRead (devKey d x) s.dev)
      else devRead (devKey d x) s.dev := by
  obtain ⟨kept, read⟩ := forFin_observes (fun s => devRead (devKey d x) s.dev) _ _
    (fun b s (hs : BoardState topo t s) => ⟨hs.vsetSlot cfg c raw b, hs.devRead_vsetSlot valid c raw b d x⟩) s h
  refine ⟨kept, read.trans ?_⟩
  congr 1
  simp only [Fin.exists_fin_two]
  grind

theorem BoardState.vsetChannel {topo : Topology} {t : Table} {s : State} (h : BoardState topo t s) {cfg : Cfg}
    (valid : cfg.Valid) (c : Channel) (raw : U16) (d : Channel) (x : BusAddr) :
    BoardState topo t (vsetChannel cfg c raw s) ∧
    devRead (devKey d x) (vsetChannel cfg c raw s).dev =
      if d = c ∧ Named t topo c x then (deviceBytes cfg x (clampNat raw.toNat)).or (devRead (devKey d x) s.dev)
      else devRead (devKey d x) s.dev := by
  unfold Machine.vsetChannel
  split
  · exact (BoardState.mk (h.bench.diag (.noDevice c)) h.table).vsetSlots valid c raw d x
  · exact h.vsetSlots valid c raw d x

/-- VSET: each device that the table names and the board has holds its channel's encoded value, every other device what
it held. `value` is the raw value that the range gives channel `d`, if it does. -/
theorem OnBench.devRead_vset {topo : Topology} {s : State} (h : OnBench topo s) {cfg : Cfg} (valid : cfg.Valid)
    {lo n : Nat} (range : lo + n ≤ 16) (src : Fin n → U16) (d : Channel) (x : BusAddr) {value : Option U16}
    (inside : ∀ k : Fin n, d.val = lo + k.val → value = some (src k))
    (outside : (∀ k : Fin n, d.val ≠ lo + k.val) → value = none) :
    devRead (devKey d x) (vset cfg lo n range src s).dev =
      (if Named s.table topo d x then value.bind fun raw => deviceBytes cfg x (clampNat raw.toNat) else none).or
        (devRead (devKey d x) s.dev) := by
  have turn : ∀ k u, BoardState topo s.table u →
      BoardState topo s.table (Machine.vsetChannel cfg ⟨lo + k.val, by omega⟩ (src k) u) ∧
      devRead (devKey d x) (Machine.vsetChannel cfg ⟨lo + k.val, by omega⟩ (src k) u).dev =
        if d.val = lo + k.val ∧ Named s.table topo d x then
          (value.bind fun raw => deviceBytes cfg x (clampNat raw.toNat)).or (devRead (devKey d x) u.dev)
        else devRead (devKey d x) u.dev := by
    intro k u hu
    obtain ⟨kept, read⟩ := hu.vsetChannel valid ⟨lo + k.val, by omega⟩ (src k) d x
    refine ⟨kept, read.trans ?_⟩
    by_cases here : d.val = lo + k.val
    · have same : (⟨lo + k.val, by omega⟩ : Channel) = d := Fin.ext here.symm
      rw [same, inside k here]
      simp only [here, true_and, Option.bind_some]
    · have other : d ≠ ⟨lo + k.val, by omega⟩ := fun e => here (congrArg Fin.val e)
      simp only [other, here, false_and, if_false]
  obtain ⟨-, read⟩ := forFin_observes (fun s => devRead (devKey d x) s.dev) _ _ turn s ⟨h, rfl⟩
  refine read.trans ?_
  by_cases named : Named s.table topo d x
  · by_cases reached : ∃ k : Fin n, d.val = lo + k.val
    · rw [if_pos (reached.imp fun k at_k => ⟨at_k, named⟩), if_pos named]
    · rw [outside (not_exists.mp reached)]
      simp
  · simp [named]

/-- A voltage command puts each device's target over what it held. -/
theorem exec_devRead {i : Instr} {s t : State} {topo : Topology} (voltages : writesVoltages i = true)
    (board : OnBench topo s) (ran : exec i s = .next t) (c : Channel) (a : BusAddr) :
    devRead (devKey c a) t.dev =
      (deviceTarget Config.cfg i s.table topo c a).or (devRead (devKey c a) s.dev) := by
  have pinned : ∀ mask, OnBench topo (pinApply mask s) := fun _ => ⟨board.bench, board.answers⟩
  cases i with
  | allset pins v =>
    obtain rfl := next_inj ran
    refine (pinned pins).devRead_vset Config.cfg_valid _ _ c a (fun k at_k => ?_) fun out => ?_
    · obtain rfl : c = k := Fin.ext (by omega)
      rfl
    · exact absurd (Nat.zero_add c.val).symm (out c)
  | slab0set pins v =>
    obtain rfl := next_inj ran
    refine (pinned pins).devRead_vset Config.cfg_valid _ _ c a (fun k at_k => ?_) fun out => dif_neg fun low => ?_
    · rw [Nat.zero_add] at at_k
      exact (dif_pos (at_k ▸ k.isLt)).trans (by simp [at_k])
    · exact out ⟨c.val, low⟩ (Nat.zero_add _).symm
  | slab1set v =>
    obtain rfl := next_inj ran
    refine board.devRead_vset Config.cfg_valid _ _ c a (fun k at_k => ?_) fun out => dif_neg fun high => ?_
    · exact (dif_pos (by omega)).trans (by simp [at_k])
    · exact out ⟨c.val - 8, by omega⟩ (Nat.add_sub_cancel' high).symm
  | desyncEnter b =>
    obtain rfl := next_inj ran
    refine OnBench.devRead_vset (s := pinApply _ { diag (.desync b) s with desync := recoveryLen })
      ⟨board.bench, board.answers⟩ Config.cfg_valid (by decide) _ c a (fun k at_k => ?_) fun out => ?_
    · obtain rfl : c = k := Fin.ext (by omega)
      rfl
    · exact absurd (Nat.zero_add c.val).symm (out c)
  | rescan | lb1set | lb0set | nop2 | bypass => exact nomatch voltages

/-- Settles O37: the target, where there is one, over the earlier register. -/
theorem voltageCommandsReachExactlyTheirDevices : Obligations.VoltageCommandsReachExactlyTheirDevices := by
  intro i s t topo voltages bench answers ran c a
  rw [exec_devRead voltages ⟨bench, answers⟩ ran c a]
  cases deviceTarget Config.cfg i s.table topo c a <;> rfl

/-! The scan. -/

/-- A probe is its bus write, apart from a diagnostic. -/
theorem probe_state (cfg : Cfg) (c : Channel) (a : BusAddr) (r : Found × State) :
    ∃ diags, (probe cfg c a r).2 = { (busWrite cfg a cfg.probePayload.toList r.2).2 with diags := diags } := by
  unfold probe
  dsimp only
  split
  · split
    · exact ⟨_, rfl⟩
    · exact ⟨_, rfl⟩
  · exact ⟨_, rfl⟩

/-- Probes without data change no device (41_topology_scan.md R128). -/
theorem scanChannel_dev {cfg : Cfg} (empty : cfg.probePayload = none) (c : Channel) (s : State) :
    (scanChannel cfg c s).2.dev = s.dev := by
  refine List.foldlRecOn (motive := fun r : Found × State => r.2.dev = s.dev) _ _ (select_dev cfg c s)
    fun r held a _ => ?_
  obtain ⟨diags, state⟩ := probe_state cfg c a r
  rw [state, empty]
  simpa [devAfter_nil] using held

theorem scan_dev {cfg : Cfg} (empty : cfg.probePayload = none) (s : State) : (scan cfg s).dev = s.dev := by
  have kept := forFin_keeps (P := fun r : Table × State => r.2.dev = s.dev) 16 (scanStep cfg)
    (fun c r held => (scanChannel_dev empty c r.2).trans held) (emptyTable, s) rfl
  unfold scan
  generalize forFin 16 (scanStep cfg) (emptyTable, s) = r at kept
  exact kept

/-- The channel under scan in the test environment: it stays routed, and the slots found so far are the first two of the
candidates probed so far that the board has there. -/
structure ScanBoard (topo : Topology) (c : Channel) (probed : List BusAddr) (r : Found × State) : Prop where
  bench : OnBench topo r.2
  routing : r.2.muxctl = ctlRouting c
  found : r.1.Holds (probed.filter fun a => topo[c].contains a)

theorem ScanBoard.probe {cfg : Cfg} {topo : Topology} {c : Channel} {probed : List BusAddr} {r : Found × State}
    (h : ScanBoard topo c probed r) {a : BusAddr} (device : isMuxAddr cfg a = false) :
    ScanBoard topo c (probed ++ [a]) (probe cfg c a r) := by
  obtain ⟨diags, state⟩ := probe_state cfg c a r
  obtain ⟨ack, trace, found, -⟩ := probe_spec cfg c a r _ h.found
  obtain rfl : topo[c].contains a = ack := by
    rw [state] at trace
    simpa [h.bench.ackOf_eq, benchAck_ctlRouting device h.routing] using trace
  refine ⟨?_, ?_, ?_⟩
  · rw [state]
    exact ⟨h.bench.bench, (h.bench.busWrite cfg a cfg.probePayload.toList).answers⟩
  · rw [state]
    simp [muxctlAfter_of_not_mux device, h.routing]
  · rw [List.filter_append]
    simpa [List.filter_cons] using found

theorem OnBench.scanChannel {topo : Topology} {s : State} (h : OnBench topo s) {cfg : Cfg} (valid : cfg.Valid)
    (c : Channel) : ScanBoard topo c cfg.candidates (scanChannel cfg c s) := by
  have start : ScanBoard topo c [] (Found.empty, settle cfg.settleDelay (Machine.select cfg (chanByte c) s)) :=
    ⟨h.select cfg c, h.select_muxctl valid c, Found.empty_holds⟩
  suffices probes : ∀ l probed r, (∀ a ∈ l, isMuxAddr cfg a = false) → ScanBoard topo c probed r →
      ScanBoard topo c (probed ++ l) (l.foldl (fun r a => Machine.probe cfg c a r) r) from
    probes _ _ _ (fun a ha => isMuxAddr_of_device valid (valid.2.2 a ha)) start
  intro l
  induction l with
  | nil => exact fun probed r _ hr => by simpa using hr
  | cons a l ih =>
    intro probed r devices hr
    obtain ⟨device, devices⟩ := List.forall_mem_cons.mp devices
    simpa using ih _ _ devices (hr.probe device)

/-- The last turn of a loop. -/
theorem forFin_succ_last {σ : Type} (n : Nat) (body : Fin (n + 1) → σ → σ) (s : σ) :
    forFin (n + 1) body s = body (Fin.last n) (forFin n (fun k => body k.castSucc) s) := by
  induction n generalizing s with
  | zero => rfl
  | succ n ih =>
    rw [forFin, ih]
    rfl

theorem OnBench.scanStep {topo : Topology} {cfg : Cfg} (valid : cfg.Valid) (c : Channel) (r : Table × State)
    (h : OnBench topo r.2) : OnBench topo (scanStep cfg c r).2 :=
  (h.scanChannel valid c).bench

/-- After a scan the last channel is routed (R128). -/
theorem OnBench.scan_muxctl {topo : Topology} {s : State} (h : OnBench topo s) {cfg : Cfg} (valid : cfg.Valid) :
    (scan cfg s).muxctl = ctlRouting 15 := by
  have before := forFin_keeps (P := fun r : Table × State => OnBench topo r.2) 15
    (fun k => Machine.scanStep cfg k.castSucc) (fun k r held => held.scanStep valid k.castSucc r) (emptyTable, s) h
  have last : (forFin 16 (Machine.scanStep cfg) (emptyTable, s)).2.muxctl = ctlRouting 15 := by
    rw [forFin_succ_last]
    exact (before.scanChannel valid (Fin.last 15)).routing
  unfold Machine.scan
  generalize forFin 16 (Machine.scanStep cfg) (emptyTable, s) = r at last
  exact last

/-- Settles O52: the frame of a scan, its writes without data, and the select of its last channel. -/
theorem scanLeavesChannel15RoutedAndDevicesAlone : Obligations.ScanLeavesChannel15RoutedAndDevicesAlone := by
  refine fun cfg s valid => ⟨(scan_spec cfg s).2, fun empty => scan_dev empty s, fun topo bench answers c => ?_⟩
  rw [OnBench.scan_muxctl ⟨bench, answers⟩ valid, routed_ctlRouting]

/-- A scan's table: on every channel the first two candidates that the board has there. -/
theorem OnBench.scan_table {topo : Topology} {s : State} (h : OnBench topo s) {cfg : Cfg} (valid : cfg.Valid)
    (c : Channel) : (scan cfg s).table[c] = firstTwo (cfg.candidates.filter fun a => topo[c].contains a) := by
  have hits : ∀ r : Table × State, OnBench topo r.2 →
      (Machine.scanStep cfg c r).1[c] = firstTwo (cfg.candidates.filter fun a => topo[c].contains a) := by
    intro r held
    rw [← (held.scanChannel valid c).found.2]
    simp [Machine.scanStep]
  refine forFin_reaches (I := fun r : Table × State => OnBench topo r.2)
    (P := fun r => r.1[c] = firstTwo (cfg.candidates.filter fun a => topo[c].contains a))
    (fun k r held => held.scanStep valid k r) (fun k r held found => ?_) c hits (emptyTable, s) h
  by_cases same : k = c
  · exact same ▸ hits r held
  · have other : k.val ≠ c.val := fun e => same (Fin.ext e)
    simpa [Machine.scanStep, other] using found

/-- Settles O53: the lightbar configurations after the scan keep its table. -/
theorem rescanFindsTheDevicesOnTheBoard : Obligations.RescanFindsTheDevicesOnTheBoard := by
  intro s topo bench answers
  have kept := (lbcfg_traffic Config.cfg 0 (scan Config.cfg s)).1.trans (lbcfg_traffic Config.cfg 1 _).1
  refine ⟨_, exec_rescan s, fun c => ?_⟩
  rw [rescan, kept.table]
  exact OnBench.scan_table ⟨bench, answers⟩ Config.cfg_valid c

end Sys2Proof.Machine
end
